-- ==== Sys2Proof/Word.lean ====
section
/-!
DEFINITION. The words and bytes of the hardware (spec/00_scope.md R6, R7): bit vectors whose
addition wraps modulo 2^32.
-/

namespace Sys2Proof

/-- A 32-bit unsigned word (R6). `+` on words is addition modulo 2^32 (R7). -/
abbrev Word := BitVec 32

/-- An 8-bit unsigned byte (R6). -/
abbrev Byte := BitVec 8

/-- A 64-bit unsigned quantity: L, LBITS and BLKCNT (R48, R49, R50). -/
abbrev Dword := BitVec 64

end Sys2Proof
end

