-- ==== Sys2Proof/Syntax.lean ====
section
/-!
DEFINITION. The commands, one constructor per row of spec/opcode_table.json
(spec/30_encoding.md R121). Operands are the unsigned fields of R122, each of exactly the values
its field can hold.
-/

namespace Sys2Proof

/-- A host command (R121). -/
inductive Instr
  /-- NOP: no operand (spec/41_commands.md R170). -/
  | nop
  /-- INIT: KREQ, the rounds-to-record request, and HLD, the block-hold option (R171). -/
  | init (kreq : BitVec 8) (hld : Bool)
  /-- ABSORB: BYTE, one message byte (R172). -/
  | absorb (byte : Byte)
  /-- FINISH: no operand (R173). -/
  | finish
  /-- RESUME: no operand (R174). -/
  | resume
  /-- LOADH: HIDX, a hash-state word index 0..7; the data is DIN (R180). -/
  | loadh (hidx : Fin 8)
  /-- LOADM: MIDX, a block word index 0..15; the data is DIN (R181). -/
  | loadm (midx : Fin 16)
  /-- COMPRESS: no operand (R182). -/
  | compress
  deriving DecidableEq, Repr

end Sys2Proof
end

