-- ==== Sys2Proof/WellFormed.lean ====
section
/-!
DEFINITION. Which command words are well-formed, in the first form of spec/30_encoding.md R123:
the opcode byte is at most 0x07 and every reserved bit of that opcode's row of R121 is 0.
An `Instr` needs no check of its own: its operands cannot leave their fields.
-/

namespace Sys2Proof

/-- The reserved ARG bits of an opcode (last column of R121); `none` for an opcode R121 does not list. -/
def reservedBits (op : Nat) : Option Word :=
  match op with
  | 0 => some 0x00FFFFFF#32
  | 1 => some 0x00FFFE00#32
  | 2 => some 0x00FFFF00#32
  | 3 => some 0x00FFFFFF#32
  | 4 => some 0x00FFFFFF#32
  | 5 => some 0x00FFFFF8#32
  | 6 => some 0x00FFFFF0#32
  | 7 => some 0x00FFFFFF#32
  | _ => none

/-- R123: a command word is well-formed iff its opcode is listed and its reserved bits are all 0. -/
def wellFormed (c : Word) : Bool :=
  match reservedBits (c.extractLsb' 24 8).toNat with
  | some r => c &&& r == 0#32
  | none => false

end Sys2Proof
end

