-- ==== Sys2Proof/Decode.lean ====
section
/-!
DEFINITION. The decoder and the encoder, from the match/mask table of spec/30_encoding.md R123 and
the operand fields of R122. Decoding is total (R125): a word is one command or is rejected by name.
-/

namespace Sys2Proof

/-- Why a word is illegal (R124). -/
inductive Reject
  /-- The opcode byte is 0x08..0xFF. -/
  | unassignedOpcode
  /-- The opcode is assigned, and a reserved bit of its layout is not 0. -/
  | reservedBitSet
  deriving DecidableEq, Repr

/-- The outcome of decoding one word. -/
inductive Decoded
  | command (i : Instr)
  | illegal (why : Reject)
  deriving DecidableEq, Repr

/-- One row of the table of R123, with the operand fields assembled from the word (R122). -/
structure EncodingRow where
  mnemonic : String
  pattern : Word
  mask : Word
  build : Word → Instr

/-- `(c & mask) == match` of R123. -/
def EncodingRow.accepts (r : EncodingRow) (c : Word) : Bool :=
  c &&& r.mask == r.pattern

/-- The table of R123, row by row. -/
def encodingTable : List EncodingRow := [
  ⟨"NOP",      0x00000000#32, 0xFFFFFFFF#32, fun _ => .nop⟩,
  ⟨"INIT",     0x01000000#32, 0xFFFFFE00#32, fun c => .init (c.extractLsb' 0 8) (c.getLsbD 8)⟩,
  ⟨"ABSORB",   0x02000000#32, 0xFFFFFF00#32, fun c => .absorb (c.extractLsb' 0 8)⟩,
  ⟨"FINISH",   0x03000000#32, 0xFFFFFFFF#32, fun _ => .finish⟩,
  ⟨"RESUME",   0x04000000#32, 0xFFFFFFFF#32, fun _ => .resume⟩,
  ⟨"LOADH",    0x05000000#32, 0xFFFFFFF8#32, fun c => .loadh (c.extractLsb' 0 3).toFin⟩,
  ⟨"LOADM",    0x06000000#32, 0xFFFFFFF0#32, fun c => .loadm (c.extractLsb' 0 4).toFin⟩,
  ⟨"COMPRESS", 0x07000000#32, 0xFFFFFFFF#32, fun _ => .compress⟩]

/-- Decode a command word (R123, R124). -/
def decode (c : Word) : Decoded :=
  match encodingTable.find? (fun r => r.accepts c) with
  | some r => .command (r.build c)
  | none =>
    if (c.extractLsb' 24 8).toNat ≤ 7 then .illegal .reservedBitSet
    else .illegal .unassignedOpcode

/-- The word of a command (R123, R127). -/
def encode (i : Instr) : Word :=
  match i with
  | .nop => 0x00000000#32
  | .init kreq hld => 0x01000000#32 ||| (if hld then 0x100#32 else 0#32) ||| kreq.setWidth 32
  | .absorb byte => 0x02000000#32 ||| byte.setWidth 32
  | .finish => 0x03000000#32
  | .resume => 0x04000000#32
  | .loadh hidx => 0x05000000#32 ||| BitVec.ofNat 32 hidx.val
  | .loadm midx => 0x06000000#32 ||| BitVec.ofNat 32 midx.val
  | .compress => 0x07000000#32

/-- The command the decoder reads from a row of the opcode table whose `nbits` bits are `w`. Every
command is one 32-bit word (R120), so bits above `nbits` are 0 and no longer form exists. -/
def decodeTableWord (nbits w : Nat) : Option Instr :=
  if nbits ≤ 32 ∧ w < 2 ^ nbits then
    match decode (BitVec.ofNat 32 w) with
    | .command i => some i
    | .illegal _ => none
  else none

end Sys2Proof
end

