-- ==== Sys2Proof/Config.lean ====
section
/-!
DEFINITION. The fixed parameters of this hardware (spec/00_scope.md R5). The spec leaves no
parameter open and gives no undefined result, so there is no free value here.
-/

namespace Sys2Proof.Config

/-- The maximum message length in bytes, 2^61 - 1 (R5, R48). -/
def maxLength : Dword := 0x1FFFFFFFFFFFFFFF#64

/-- Bytes in a block (R5): FILL reaches this value when the block is full. -/
def blockBytes : Nat := 64

/-- The round-record capacity, and the upper end of the clamp of KREQ (R5, R44). -/
def maxRecords : Nat := 64

/-- The block position at which the length field starts (R34, R200). -/
def lengthPosition : BitVec 7 := 56#7

end Sys2Proof.Config
end

