-- ==== Sys2Proof/Machine/State.lean ====
section
/-!
DEFINITION. The state as plain data: the engine's elements, exactly the table of spec/10_state.md
R30, and beside them the host's side of the bus as inputs and outputs. K, IV and ID of that table
are the constants of Machine/Rom.lean.
-/

namespace Sys2Proof.Machine

/-- PHASE, the sequencer state (R31). Values 9..15 never occur and cannot be written here. -/
inductive Phase
  | ready | slice | sched | round | final | pad | held | done | error
  deriving DecidableEq, Repr

/-- PADST, the padding stage's position (R34). Values 11..15 never occur and cannot be written here. -/
inductive PadState
  | none | mark | zero | len1 | len2 | len3 | len4 | len5 | len6 | len7 | last
  deriving DecidableEq, Repr

/-- ERRCODE (R51, spec/60_exceptions.md R260). Values 5..15 never occur and cannot be written here. -/
inductive ErrCode
  | none | inputTooLarge | invariantViolation | illegalCommand | protocolError
  deriving DecidableEq, Repr

/-- One entry of the round recorder, 13 words (R43): RT, RW, RK, RT1, RT2 and RA..RH in `vars`. -/
structure RoundRecord where
  rt   : Word
  rw   : Word
  rk   : Word
  rt1  : Word
  rt2  : Word
  vars : Vector Word 8
  deriving DecidableEq, Repr

/-- The record an entry holds when nothing has been recorded in it (R43). -/
def RoundRecord.empty : RoundRecord := ⟨0#32, 0#32, 0#32, 0#32, 0#32, Vector.replicate 8 0#32⟩

/-- The engine's state, element by element the table of R30. -/
structure Engine where
  /-- PHASE (R31). -/
  phase   : Phase
  /-- t, the round or schedule index, 0..64 (R32). -/
  t       : BitVec 7
  /-- FILL, the bytes held in the block buffer, 0..64 (R33). -/
  fill    : BitVec 7
  /-- PADST (R34). -/
  padst   : PadState
  /-- H[0..7], the hash state (R35). -/
  H       : Vector Word 8
  /-- V[0..7], the working variables a..h (R36). -/
  V       : Vector Word 8
  /-- T1R, the T1 of the most recent round (R37). -/
  t1r     : Word
  /-- T2R, the T2 of the most recent round (R37). -/
  t2r     : Word
  /-- W[0..63], the message schedule (R38). -/
  W       : Vector Word 64
  /-- BLK[0..63], the block buffer (R39). -/
  blk     : Vector Byte 64
  /-- REC[0..63], the round records (R43). -/
  records : Vector RoundRecord 64
  /-- RECK, the rounds to record, 0..64 (R44). -/
  reck    : BitVec 7
  /-- RECCNT, the records written since INIT, 0..64 (R45). -/
  reccnt  : BitVec 7
  /-- HOLD, the block-hold option (R47). -/
  hold    : Bool
  /-- FIRST, set until the first block after INIT is compressed (R46). -/
  first   : Bool
  /-- L, the message length in bytes (R48). -/
  L       : Dword
  /-- LBITS, the message bit length latched by FINISH (R49). -/
  lbits   : Dword
  /-- BLKCNT, the blocks compressed since INIT, modulo 2^64 (R50). -/
  blkcnt  : Dword
  /-- ERRCODE (R51). -/
  errcode : ErrCode
  /-- ERRCMD (R51). -/
  errcmd  : Word
  /-- DIN, the data-in register (R52). -/
  din     : Word
  deriving DecidableEq, Repr

/-- What the host does next on the bus (spec/20_memory.md R99, R86): an access at an offset of the
13-bit window (R80), with its width in bytes, or the polling loop `wait` of spec/30_encoding.md R128.
An access of a width other than 4 has no effect (R86), so its data is not told apart beyond 32 bits. -/
inductive HostOp
  | read (off : BitVec 13) (bytes : Nat)
  | write (off : BitVec 13) (bytes : Nat) (value : Word)
  | wait
  deriving DecidableEq, Repr

/-- What the bus answers to an access: the data of a read (R9), the completion of a write, or the
bus error response of R86. -/
inductive BusResponse
  | data (value : Word)
  | done
  | busError
  deriving DecidableEq, Repr

/-- Whose move the next step is, where more than one could move (R91, spec/70_reset_and_hazards.md
R300): the engine's micro-step, the host's access, or the platform's reset. -/
inductive Turn
  | engine | host | reset
  deriving DecidableEq, Repr

/-- The engine, and the host's side of the bus as inputs and outputs (assumption log 2). -/
structure State where
  /-- The engine's state (R30). -/
  eng       : Engine
  /-- The host operations not yet completed, in program order (R91 (a)). -/
  program   : List HostOp
  /-- The bus responses so far, oldest first. -/
  responses : List BusResponse
  /-- Whether the first operation of `program` is a CMD write that stands held at the port (R92). -/
  held      : Bool
  /-- The interleaving (R91): each step takes one turn from the front; when none is left the
  engine moves if it is busy, and the host otherwise. -/
  turns     : List Turn
  deriving DecidableEq, Repr

/-- Why the model stops. The hardware's own errors are next states (spec/60_exceptions.md R263);
none of these can be met from a state of the invariant `Safety.Inv`. -/
inductive Fault
  /-- Raised by a command's meaning run while PHASE is busy: the port holds the command then and
  accepts none (R92). `step` never does this. Safe: the model stops where the hardware waits. -/
  | commandHeld
  /-- Raised by a micro-step asked for in an idle phase (R31). `step` never does this. Safe. -/
  | noMicroStep
  /-- Raised by ABSORB or PAD when FILL is above 63, which R56 (a), (b) and R98 rule out. Safe. -/
  | blockBufferFull
  /-- Raised by PAD when PADST is NONE or LAST, which R56 (b) rules out. Safe. -/
  | noPadPosition
  /-- Raised by SCHED when t is outside 16..63, which R32 and R98 rule out. Safe. -/
  | scheduleIndexOutOfRange
  /-- Raised by ROUND when t is outside 0..63, which R32 and R98 rule out. Safe. -/
  | roundIndexOutOfRange
  deriving DecidableEq, Repr

/-- Commands without a meaning. -/
inductive Refusal
  /-- Raised by `exec` for a command that has no meaning yet; no arm of `exec` does so. Safe. -/
  | notModelled (mnemonic : String)
  deriving DecidableEq, Repr

/-- The "reset" column of R30. -/
def Engine.reset : Engine where
  phase   := .ready
  t       := 0#7
  fill    := 0#7
  padst   := .none
  H       := Rom.iv
  V       := Vector.replicate 8 0#32
  t1r     := 0#32
  t2r     := 0#32
  W       := Vector.replicate 64 0#32
  blk     := Vector.replicate 64 0#8
  records := Vector.replicate 64 RoundRecord.empty
  reck    := 8#7
  reccnt  := 0#7
  hold    := false
  first   := true
  L       := 0#64
  lbits   := 0#64
  blkcnt  := 0#64
  errcode := .none
  errcmd  := 0#32
  din     := 0#32

/-- The machine right after reset (spec/70_reset_and_hazards.md R300), with no host operation given
and none answered. DESIGN CHOICE (assumption log 2): the four host-side fields are empty. -/
def State.reset : State where
  eng       := Engine.reset
  program   := []
  responses := []
  held      := false
  turns     := []

end Sys2Proof.Machine
end

