-- ==== Sys2Proof/Machine/Flags.lean ====
section
/-!
DEFINITION. The register codes and the status flags: the encodings of PHASE (spec/10_state.md R31),
PADST (R34) and ERRCODE (R51, spec/60_exceptions.md R260), the flags BUSY and DV (R54) and the
STATUS word (R53).
-/

namespace Sys2Proof.Machine

/-- The encoding of PHASE (R31). -/
def Phase.code : Phase → BitVec 4
  | .ready => 0#4
  | .slice => 1#4
  | .sched => 2#4
  | .round => 3#4
  | .final => 4#4
  | .pad   => 5#4
  | .held  => 6#4
  | .done  => 7#4
  | .error => 8#4

/-- The encoding of PADST (R34). -/
def PadState.code : PadState → BitVec 4
  | .none => 0#4
  | .mark => 1#4
  | .zero => 2#4
  | .len1 => 3#4
  | .len2 => 4#4
  | .len3 => 5#4
  | .len4 => 6#4
  | .len5 => 7#4
  | .len6 => 8#4
  | .len7 => 9#4
  | .last => 10#4

/-- The error codes (R51, R260). -/
def ErrCode.code : ErrCode → BitVec 4
  | .none               => 0#4
  | .inputTooLarge      => 1#4
  | .invariantViolation => 2#4
  | .illegalCommand     => 3#4
  | .protocolError      => 4#4

/-- `BUSY = {SLICE, SCHED, ROUND, FINAL, PAD}` (R31): also the flag BUSY (R53, R54). -/
def Phase.busy : Phase → Bool
  | .slice | .sched | .round | .final | .pad => true
  | .ready | .held | .done | .error => false

/-- The flag DV: the digest is valid exactly in DONE (R53). -/
def Phase.digestValid (p : Phase) : Bool := p == .done

/-- A one-bit flag as a word. -/
def flagWord (b : Bool) : Word := if b then 1#32 else 0#32

/-- STATUS, by the formula of R53. -/
def Engine.status (e : Engine) : Word :=
  (e.padst.code.setWidth 32 <<< 16) |||
  (e.errcode.code.setWidth 32 <<< 8) |||
  (flagWord e.first <<< 7) |||
  (flagWord e.hold <<< 6) |||
  (flagWord e.phase.digestValid <<< 5) |||
  (flagWord e.phase.busy <<< 4) |||
  e.phase.code.setWidth 32

end Sys2Proof.Machine
end

