-- ==== Sys2Proof/Machine/Operands.lean ====
section
/-!
DEFINITION. Operand assembly and byte order: be32 and byte_j (spec/00_scope.md R8), the words of
the block buffer (spec/20_memory.md R89 (a), (d), (e)), the bytes of the length field (R89 (b),
spec/42_padding_slicing.md R200) and the clamp of KREQ (spec/30_encoding.md R122).
-/

namespace Sys2Proof.Machine

/-- `be32(b0, b1, b2, b3)`: `b0` is the most significant byte (R8). -/
def be32 (b0 b1 b2 b3 : Byte) : Word :=
  (b0.setWidth 32 <<< 24) ||| (b1.setWidth 32 <<< 16) ||| (b2.setWidth 32 <<< 8) |||
    b3.setWidth 32

/-- `byte_j(x) = x[31-8j : 24-8j]`, j = 0..3 (R8). -/
def byteOf (x : Word) (j : Nat) : Byte := x.extractLsb' (24 - 8 * j) 8

/-- Byte j, j = 0..7, of the 64-bit big-endian length: `LBITS[63-8j : 56-8j]` (R200, R89 (b)). -/
def lengthByte (lbits : Dword) (j : Nat) : Byte := lbits.extractLsb' (56 - 8 * j) 8

/-- `BLKW[i] = be32(BLK[4i], BLK[4i+1], BLK[4i+2], BLK[4i+3])` (R39, R89 (a), (e)). -/
def blockWord (blk : Vector Byte 64) (i : Fin 16) : Word :=
  be32 (blk[4 * i.val]'(by omega)) (blk[4 * i.val + 1]'(by omega))
    (blk[4 * i.val + 2]'(by omega)) (blk[4 * i.val + 3]'(by omega))

/-- LOADM's store: `BLK[4i + j] <- byte_j(x)` for j = 0..3 (R181, R89 (d)). -/
def putBlockWord (blk : Vector Byte 64) (i : Fin 16) (x : Word) : Vector Byte 64 :=
  (((blk.set (4 * i.val) (byteOf x 0) (by omega)).set (4 * i.val + 1) (byteOf x 1) (by omega)).set
    (4 * i.val + 2) (byteOf x 2) (by omega)).set (4 * i.val + 3) (byteOf x 3) (by omega)

/-- `min(KREQ, 64)` (R122, R44): requests 65..255 give 64. -/
def clampRounds (kreq : BitVec 8) : BitVec 7 :=
  BitVec.ofNat 7 (min kreq.toNat Config.maxRecords)

/-- `8 * L`: the message bit length FINISH latches (spec/41_commands.md R173). -/
def bitLength (len : Dword) : Dword := 8#64 * len

end Sys2Proof.Machine
end

