-- ==== Sys2Proof/Machine/Ops.lean ====
section
/-!
DEFINITION. The shared operations: error entry (spec/60_exceptions.md R263) and the way out of
ERROR, which is INIT's body (R270, spec/41_commands.md R171); the legality table (R166) and
acceptance (R165, R169); storing the next byte of a block (R172, spec/42_padding_slicing.md R200).
-/

namespace Sys2Proof.Machine

/-- `raise Error(code, c)` (R263): ERRCODE, ERRCMD and PHASE change, and nothing else. -/
def State.raiseError (s : State) (code : ErrCode) (c : Word) : State :=
  { s with eng := { s.eng with errcode := code, errcmd := c, phase := .error } }

/-- INIT's body (R171): everything but DIN is reinitialised. It is the only command that leaves
ERROR (R270), and reset performs it too (spec/70_reset_and_hazards.md R300). -/
def Engine.initialise (e : Engine) (kreq : BitVec 8) (hld : Bool) : Engine where
  reck    := clampRounds kreq
  hold    := hld
  H       := Rom.iv
  V       := Vector.replicate 8 0#32
  t1r     := 0#32
  t2r     := 0#32
  W       := Vector.replicate 64 0#32
  records := Vector.replicate 64 RoundRecord.empty
  blk     := Vector.replicate 64 0#8
  reccnt  := 0#7
  fill    := 0#7
  t       := 0#7
  L       := 0#64
  lbits   := 0#64
  blkcnt  := 0#64
  padst   := .none
  first   := true
  errcode := .none
  errcmd  := 0#32
  phase   := .ready
  din     := e.din

/-- `LEGAL(op)` of R166: the idle phases in which a command executes. ERROR is treated apart (R169). -/
def legalIn (i : Instr) (p : Phase) : Bool :=
  match i with
  | .nop      => p == .ready || p == .held || p == .done
  | .init _ _ => p == .ready || p == .held || p == .done || p == .error
  | .absorb _ => p == .ready
  | .finish   => p == .ready
  | .resume   => p == .held
  | .loadh _  => p == .ready
  | .loadm _  => p == .ready
  | .compress => p == .ready

/-- Acceptance of the well-formed command `i` (R165), around the command's own rule `body`. In a
busy phase no command is accepted (R92). ERRCMD takes the command's word, which is `encode i` since
a well-formed word has one command (R123). -/
def acceptCommand (i : Instr) (body : State → Host.Outcome State Fault Refusal) (s : State) :
    Host.Outcome State Fault Refusal :=
  if s.eng.phase.busy then .fault .commandHeld
  else if legalIn i s.eng.phase then body s
  else if s.eng.phase == .error then .next s
  else .next (s.raiseError .protocolError (encode i))

/-- Store the next byte of the block (R172, R200): `BLK[FILL] <- b`, `FILL <- FILL + 1`, and SLICE
when the block is full. `none` when FILL is above 63, which R56 rules out. -/
def Engine.appendByte (e : Engine) (b : Byte) : Option Engine :=
  if h : e.fill.toNat < 64 then
    some { e with
      blk := e.blk.set e.fill.toNat b h
      fill := e.fill + 1#7
      phase := if e.fill + 1#7 = 64#7 then .slice else e.phase }
  else none

end Sys2Proof.Machine
end

