-- ==== Sys2Proof/Machine/MessageCommands.lean ====
section
/-!
DEFINITION. The meanings of the message commands NOP, INIT, ABSORB, FINISH and RESUME
(spec/41_commands.md R170 to R174).
-/

namespace Sys2Proof.Machine

/-- NOP (R170): no state changes. -/
def execNop (s : State) : Host.Outcome State Fault Refusal :=
  acceptCommand .nop (fun s => .next s) s

/-- INIT (R171): legal in every idle phase, ERROR included. -/
def execInit (kreq : BitVec 8) (hld : Bool) (s : State) : Host.Outcome State Fault Refusal :=
  acceptCommand (.init kreq hld) (fun s => .next { s with eng := s.eng.initialise kreq hld }) s

/-- ABSORB (R172): the length check comes before any state change. -/
def execAbsorb (byte : Byte) (s : State) : Host.Outcome State Fault Refusal :=
  acceptCommand (.absorb byte) (fun s =>
    if s.eng.L = Config.maxLength then
      .next (s.raiseError .inputTooLarge (encode (.absorb byte)))
    else
      match s.eng.appendByte byte with
      | some e => .next { s with eng := { e with L := e.L + 1#64 } }
      | none => .fault .blockBufferFull) s

/-- FINISH (R173): latches the bit length and starts the padding stage. -/
def execFinish (s : State) : Host.Outcome State Fault Refusal :=
  acceptCommand .finish (fun s =>
    .next { s with eng :=
      { s.eng with lbits := bitLength s.eng.L, padst := .mark, phase := .pad } }) s

/-- RESUME (R174): leaves HELD, for READY when no padding has started and for PAD otherwise. -/
def execResume (s : State) : Host.Outcome State Fault Refusal :=
  acceptCommand .resume (fun s =>
    .next { s with eng :=
      { s.eng with phase := if s.eng.padst = .none then .ready else .pad } }) s

end Sys2Proof.Machine
end

