-- ==== Sys2Proof/Machine/RawCommands.lean ====
section
/-!
DEFINITION. The meanings of the raw-path commands LOADH, LOADM and COMPRESS (spec/41_commands.md
R180 to R182).
-/

namespace Sys2Proof.Machine

/-- LOADH (R180): `H[HIDX] <- DIN`. -/
def execLoadh (hidx : Fin 8) (s : State) : Host.Outcome State Fault Refusal :=
  acceptCommand (.loadh hidx) (fun s =>
    .next { s with eng := { s.eng with H := s.eng.H.set hidx.val s.eng.din hidx.isLt } }) s

/-- LOADM (R181): four bytes of the block from DIN, big-endian; INVARIANT_VIOLATION while the
buffer holds part of an absorbed message. -/
def execLoadm (midx : Fin 16) (s : State) : Host.Outcome State Fault Refusal :=
  acceptCommand (.loadm midx) (fun s =>
    if s.eng.fill = 0#7 then
      .next { s with eng := { s.eng with blk := putBlockWord s.eng.blk midx s.eng.din } }
    else .next (s.raiseError .invariantViolation (encode (.loadm midx)))) s

/-- COMPRESS (R182): compresses the block buffer as it stands; INVARIANT_VIOLATION while it holds
part of an absorbed message. -/
def execCompress (s : State) : Host.Outcome State Fault Refusal :=
  acceptCommand .compress (fun s =>
    if s.eng.fill = 0#7 then .next { s with eng := { s.eng with phase := .slice } }
    else .next (s.raiseError .invariantViolation (encode .compress))) s

end Sys2Proof.Machine
end

