-- ==== Sys2Proof/Machine/Dispatch.lean ====
section
/-! DEFINITION. The command dispatch: one arm per constructor of `Instr`. -/

namespace Sys2Proof.Machine

def exec (i : Instr) (s : State) : Host.Outcome State Fault Refusal :=
  match i with
  | .nop => Sys2Proof.Machine.execNop s
  | .init kreq hld => Sys2Proof.Machine.execInit kreq hld s
  | .absorb byte => Sys2Proof.Machine.execAbsorb byte s
  | .finish => Sys2Proof.Machine.execFinish s
  | .resume => Sys2Proof.Machine.execResume s
  | .loadh hidx => Sys2Proof.Machine.execLoadh hidx s
  | .loadm midx => Sys2Proof.Machine.execLoadm midx s
  | .compress => Sys2Proof.Machine.execCompress s

end Sys2Proof.Machine
end

