-- ==== Sys2Proof/Machine/Window.lean ====
section
/-!
DEFINITION. The host register window (spec/20_memory.md R80 to R84): a view of the registers at
word-aligned offsets. It stores nothing of its own.
-/

namespace Sys2Proof.Machine

/-- The offset of CMD (R81). -/
def cmdOffset : BitVec 13 := 0x008#13

/-- The offset of DIN (R81). -/
def dinOffset : BitVec 13 := 0x00C#13

/-- The offset of STATUS (R81). -/
def statusOffset : BitVec 13 := 0x004#13

/-- Word `f` of a record (R43): 0 RT, 1 RW, 2 RK, 3 RT1, 4 RT2, 5..12 RA..RH; words 13..15 read 0 (R82). -/
def RoundRecord.word (r : RoundRecord) (f : Nat) : Word :=
  match f with
  | 0 => r.rt
  | 1 => r.rw
  | 2 => r.rk
  | 3 => r.rt1
  | 4 => r.rt2
  | n + 5 => if h : n < 8 then r.vars[n] else 0#32

/-- The low half of a 64-bit register (R81). -/
def lowHalf (x : Dword) : Word := x.extractLsb' 0 32

/-- The high half of a 64-bit register (R81). -/
def highHalf (x : Dword) : Word := x.extractLsb' 32 32

/-- The registers 0x000..0x03C of R81, by word number. CMD reads 0 (R84) and 0x03C is reserved. -/
def controlRegister (e : Engine) (n : Nat) : Word :=
  match n with
  | 0  => Rom.id
  | 1  => e.status
  | 2  => 0#32
  | 3  => e.din
  | 4  => e.reck.setWidth 32
  | 5  => e.reccnt.setWidth 32
  | 6  => e.fill.setWidth 32
  | 7  => e.t.setWidth 32
  | 8  => lowHalf e.L
  | 9  => highHalf e.L
  | 10 => lowHalf e.blkcnt
  | 11 => highHalf e.blkcnt
  | 12 => lowHalf e.lbits
  | 13 => highHalf e.lbits
  | 14 => e.errcmd
  | _  => 0#32

/-- The read value at word-aligned offset `o` of the window (R81, R82); a reserved offset reads 0 (R83). -/
def readWindowAt (e : Engine) (o : Nat) : Word :=
  if o < 0x040 then controlRegister e (o / 4)
  else if h : o < 0x060 then e.H[(o - 0x040) / 4]'(by omega)
  else if h : o < 0x080 then e.V[(o - 0x060) / 4]'(by omega)
  else if o < 0x084 then e.t1r
  else if o < 0x088 then e.t2r
  else if o < 0x0C0 then 0#32
  else if h : o < 0x0E0 then Rom.iv[(o - 0x0C0) / 4]'(by omega)
  else if o < 0x100 then 0#32
  else if h : o < 0x140 then blockWord e.blk ⟨(o - 0x100) / 4, by omega⟩
  else if o < 0x200 then 0#32
  else if h : o < 0x300 then e.W[(o - 0x200) / 4]'(by omega)
  else if h : o < 0x400 then Rom.k[(o - 0x300) / 4]'(by omega)
  else if o < 0x1000 then 0#32
  else if h : o < 0x2000 then (e.records[(o - 0x1000) / 64]'(by omega)).word (o % 64 / 4)
  else 0#32

/-- The read value of the register at an offset of the window. -/
def readWindow (e : Engine) (off : BitVec 13) : Word := readWindowAt e off.toNat

/-- Whether an access is one the window takes: 32 bits wide at an offset with `off[1:0] = 0` (R86). -/
def accessAllowed (off : BitVec 13) (bytes : Nat) : Bool :=
  bytes == 4 && off.toNat % 4 == 0

end Sys2Proof.Machine
end

