-- ==== Sys2Proof/Machine/Bus.lean ====
section
/-!
DEFINITION. The host's accesses (spec/20_memory.md R81, R84, R86, R92), acceptance of a raw command
word (spec/41_commands.md R165) and the polling loop `wait` (spec/30_encoding.md R128).
-/

namespace Sys2Proof.Machine

/-- The first host operation completes with the response `r`; nothing stays held at the port. -/
def State.complete (s : State) (r : BusResponse) : State :=
  { s with program := s.program.tail, responses := s.responses ++ [r], held := false }

/-- Acceptance of the word `c` (R165), the engine being idle: a command of R123 has its meaning; an
illegal word raises ILLEGAL_COMMAND (R124), or is ignored in ERROR (R169). -/
def acceptWord (c : Word) (s : State) : Host.Outcome State Fault Refusal :=
  match decode c with
  | .command i => exec i s
  | .illegal _ =>
    if s.eng.phase == .error then .next s else .next (s.raiseError .illegalCommand c)

/-- A 32-bit write of `v` at an aligned offset. A CMD write is held while PHASE is busy (R92) and
otherwise issues a command; a DIN write sets DIN (R52); any other write is ignored (R84). -/
def busWrite (off : BitVec 13) (v : Word) (s : State) : Host.Outcome State Fault Refusal :=
  if off = cmdOffset then
    if s.eng.phase.busy then .next { s with held := true }
    else acceptWord v (s.complete .done)
  else if off = dinOffset then
    .next { s.complete .done with eng := { s.eng with din := v } }
  else .next (s.complete .done)

/-- The host's move: the first operation of its program. An access of another width or alignment
gets a bus error and has no effect (R86); a read has no side effect (R88); `wait` reads STATUS until
bit 4 is 0 (R128). With nothing left to do the host does nothing. -/
def hostTurn (s : State) : Host.Outcome State Fault Refusal :=
  match s.program with
  | [] => .next s
  | .read off bytes :: _ =>
    if accessAllowed off bytes then .next (s.complete (.data (readWindow s.eng off)))
    else .next (s.complete .busError)
  | .write off bytes v :: _ =>
    if accessAllowed off bytes then busWrite off v s else .next (s.complete .busError)
  | .wait :: _ =>
    let status := readWindow s.eng statusOffset
    if status.getLsbD 4 then .next { s with responses := s.responses ++ [.data status] }
    else .next (s.complete (.data status))

/-- The platform's reset (spec/70_reset_and_hazards.md R300): every element of the engine takes its
reset value, and a held command write is abandoned. -/
def platformReset (s : State) : State :=
  { s with
    eng := Engine.reset
    program := if s.held then s.program.tail else s.program
    held := false }

end Sys2Proof.Machine
end

