-- ==== Sys2Proof/Machine/Primitives.lean ====
section
/-!
DEFINITION. The datapath functions on words (spec/40_primitives.md R150 to R159). `+` on words is
add32 (R151, spec/00_scope.md R7).
-/

namespace Sys2Proof.Machine

/-- `add32` of two words: the sum reduced modulo 2^32 (R151). -/
def add32 (x y : Word) : Word := x + y

/-- `rotr(x, n) = (x >> n) | (x << (32 - n))`, masked to 32 bits, for 0 <= n < 32 (R152). -/
def rotr (x : Word) (n : Nat) : Word := (x >>> n) ||| (x <<< (32 - n))

/-- `shr(x, n)`: the logical right shift (R153). -/
def shr (x : Word) (n : Nat) : Word := x >>> n

/-- `ch(x, y, z) = (x & y) ^ (~x & z)` (R154). -/
def ch (x y z : Word) : Word := (x &&& y) ^^^ (~~~x &&& z)

/-- `maj(x, y, z) = (x & y) ^ (x & z) ^ (y & z)` (R155). -/
def maj (x y z : Word) : Word := (x &&& y) ^^^ (x &&& z) ^^^ (y &&& z)

/-- `bsig0(x) = rotr(x, 2) ^ rotr(x, 13) ^ rotr(x, 22)` (R156). -/
def bsig0 (x : Word) : Word := rotr x 2 ^^^ rotr x 13 ^^^ rotr x 22

/-- `bsig1(x) = rotr(x, 6) ^ rotr(x, 11) ^ rotr(x, 25)` (R157). -/
def bsig1 (x : Word) : Word := rotr x 6 ^^^ rotr x 11 ^^^ rotr x 25

/-- `ssig0(x) = rotr(x, 7) ^ rotr(x, 18) ^ shr(x, 3)` (R158). -/
def ssig0 (x : Word) : Word := rotr x 7 ^^^ rotr x 18 ^^^ shr x 3

/-- `ssig1(x) = rotr(x, 17) ^ rotr(x, 19) ^ shr(x, 10)` (R159). -/
def ssig1 (x : Word) : Word := rotr x 17 ^^^ rotr x 19 ^^^ shr x 10

/-- The schedule recurrence of spec/43_schedule_compression.md R220, from W[t-2], W[t-7], W[t-15]
and W[t-16]. -/
def scheduleWord (w2 w7 w15 w16 : Word) : Word :=
  add32 (add32 (add32 (ssig1 w2) w7) (ssig0 w15)) w16

/-- T1 of a round, `add32(h, bsig1(e), ch(e, f, g), K[t], W[t])` (R221). -/
def roundT1 (v : Vector Word 8) (k w : Word) : Word :=
  add32 (add32 (add32 (add32 v[7] (bsig1 v[4])) (ch v[4] v[5] v[6])) k) w

/-- T2 of a round, `add32(bsig0(a), maj(a, b, c))` (R221). -/
def roundT2 (v : Vector Word 8) : Word := add32 (bsig0 v[0]) (maj v[0] v[1] v[2])

/-- The simultaneous assignment of a round (R221): the new a is T1 + T2, the new e is d + T1, and
the others move down one place. -/
def roundVars (v : Vector Word 8) (t1 t2 : Word) : Vector Word 8 :=
  #v[add32 t1 t2, v[0], v[1], v[2], add32 v[3] t1, v[4], v[5], v[6]]

/-- The word-wise sum of the chaining state and the working variables
(spec/43_schedule_compression.md R224, R225). -/
def addWords (h v : Vector Word 8) : Vector Word 8 :=
  Vector.ofFn fun i : Fin 8 => add32 h[i] v[i]

end Sys2Proof.Machine
end

