-- ==== Sys2Proof/Machine/MicroSteps.lean ====
section
/-!
DEFINITION. The engine's micro-steps: PAD and SLICE (spec/42_padding_slicing.md R200, R201), SCHED,
ROUND with its recording, and FINAL (spec/43_schedule_compression.md R220 to R224). None raises an
error of the hardware (spec/60_exceptions.md R261); a `Fault` here stands for a state that R56 and
R98 rule out.
-/

namespace Sys2Proof.Machine

/-- The byte a PAD step appends and the position it moves to (R200); `none` for NONE and LAST. -/
def padByte (e : Engine) : Option (Byte × PadState) :=
  match e.padst with
  | .mark => some (0x80#8, .zero)
  | .zero =>
    if e.fill = Config.lengthPosition then some (lengthByte e.lbits 0, .len1)
    else some (0x00#8, .zero)
  | .len1 => some (lengthByte e.lbits 1, .len2)
  | .len2 => some (lengthByte e.lbits 2, .len3)
  | .len3 => some (lengthByte e.lbits 3, .len4)
  | .len4 => some (lengthByte e.lbits 4, .len5)
  | .len5 => some (lengthByte e.lbits 5, .len6)
  | .len6 => some (lengthByte e.lbits 6, .len7)
  | .len7 => some (lengthByte e.lbits 7, .last)
  | .none => none
  | .last => none

/-- PAD (R200): appends one padding byte. -/
def padStep (e : Engine) : Except Fault Engine :=
  match padByte e with
  | none => .error .noPadPosition
  | some (b, p) =>
    match { e with padst := p }.appendByte b with
    | some e' => .ok e'
    | none => .error .blockBufferFull

/-- The first 16 schedule words of a block, the others kept (R201). -/
def sliceWords (blk : Vector Byte 64) (w : Vector Word 64) : Vector Word 64 :=
  Vector.ofFn fun i : Fin 64 =>
    if h : i.val < 16 then blockWord blk ⟨i.val, h⟩ else w[i.val]

/-- SLICE (R201): turns the block buffer into W[0..15]. -/
def sliceStep (e : Engine) : Except Fault Engine :=
  .ok { e with W := sliceWords e.blk e.W, t := 16#7, phase := .sched }

/-- `W[t]` computed in place (R220), for 16 <= t <= 63. -/
def setScheduleWord (w : Vector Word 64) (t : Nat) (h : 16 ≤ t ∧ t < 64) : Vector Word 64 :=
  w.set t (scheduleWord (w[t - 2]'(by omega)) (w[t - 7]'(by omega)) (w[t - 15]'(by omega))
    (w[t - 16]'(by omega))) h.2

/-- SCHED (R220): computes W[t]; the last one loads V from H and starts the rounds. -/
def schedStep (e : Engine) : Except Fault Engine :=
  if h : 16 ≤ e.t.toNat ∧ e.t.toNat < 64 then
    if e.t = 63#7 then
      .ok { e with W := setScheduleWord e.W e.t.toNat h, V := e.H, t := 0#7, phase := .round }
    else
      .ok { e with W := setScheduleWord e.W e.t.toNat h, t := e.t + 1#7 }
  else .error .scheduleIndexOutOfRange

/-- `k_eff = RECK if FIRST = 1, else 0` (R222). -/
def Engine.kEff (e : Engine) : BitVec 7 := if e.first then e.reck else 0#7

/-- The record of a round (R43, R222): t, W[t], K[t], T1, T2 and the working variables after it. -/
def roundRecord (t : BitVec 7) (w k t1 t2 : Word) (vars : Vector Word 8) : RoundRecord :=
  ⟨t.setWidth 32, w, k, t1, t2, vars⟩

/-- ROUND (R221): performs round t and records it when t < k_eff (R222). -/
def roundStep (e : Engine) : Except Fault Engine :=
  if h : e.t.toNat < 64 then
    let w := e.W[e.t.toNat]
    let k := Rom.k[e.t.toNat]
    let t1 := roundT1 e.V k w
    let t2 := roundT2 e.V
    let vars := roundVars e.V t1 t2
    let recorded := decide (e.t < e.kEff)
    .ok { e with
      V := vars
      t1r := t1
      t2r := t2
      records :=
        if recorded then e.records.set e.t.toNat (roundRecord e.t w k t1 t2 vars) h else e.records
      reccnt := if recorded then e.t + 1#7 else e.reccnt
      t := e.t + 1#7
      phase := if e.t = 63#7 then .final else e.phase }
  else .error .roundIndexOutOfRange

/-- The phase FINAL chooses (R224). -/
def phaseAfterBlock (padst : PadState) (hold : Bool) : Phase :=
  if padst = .last then .done
  else if hold then .held
  else if padst ≠ .none then .pad
  else .ready

/-- FINAL (R224): adds V into H word by word and chooses the next phase. -/
def finalStep (e : Engine) : Except Fault Engine :=
  .ok { e with
    H := addWords e.H e.V
    blkcnt := e.blkcnt + 1#64
    first := false
    fill := 0#7
    t := 0#7
    phase := phaseAfterBlock e.padst e.hold }

/-- The micro-step PHASE selects (R31). An idle phase has none. -/
def microStep (e : Engine) : Except Fault Engine :=
  match e.phase with
  | .pad   => padStep e
  | .slice => sliceStep e
  | .sched => schedStep e
  | .round => roundStep e
  | .final => finalStep e
  | .ready | .held | .done | .error => .error .noMicroStep

/-- `n` micro-steps in a row (R223, R227). -/
def microSteps : Nat → Engine → Except Fault Engine
  | 0, e => .ok e
  | n + 1, e =>
    match microStep e with
    | .ok e' => microSteps n e'
    | .error f => .error f

/-- The engine's move as a step of the machine: only the engine changes. -/
def engineTurn (s : State) : Host.Outcome State Fault Refusal :=
  match microStep s.eng with
  | .ok e => .next { s with eng := e }
  | .error f => .fault f

end Sys2Proof.Machine
end

