-- ==== Sys2Proof/Machine/Agents.lean ====
section
/-!
DEFINITION. Which agent moves (spec/00_scope.md R10, spec/20_memory.md R91, R92): one turn is taken
per step, and a turn given to an agent that cannot move goes to the other one.
-/

namespace Sys2Proof.Machine

/-- The next turn; with none left, the engine's. -/
def State.turn (s : State) : Turn := s.turns.headD .engine

/-- The state once its turn is taken. -/
def State.takeTurn (s : State) : State := { s with turns := s.turns.tail }

/-- Whether the host can make a move while the engine is busy: it has one, and it does not stand
held at the command port (R92). -/
def State.hostFree (s : State) : Bool := !s.held && !s.program.isEmpty

/-- One move of the system: the platform's reset (R300), the host's access, or the engine's
micro-step. In an idle phase the engine has no move (R31); with nothing for the host to do either,
nothing happens (spec/60_exceptions.md R285). -/
def nextMove (s : State) : Host.Outcome State Fault Refusal :=
  match s.turn with
  | .reset => .next (platformReset s.takeTurn)
  | .host =>
    if s.eng.phase.busy && !s.hostFree then engineTurn s.takeTurn else hostTurn s.takeTurn
  | .engine =>
    if s.eng.phase.busy then engineTurn s.takeTurn else hostTurn s.takeTurn

/-- A CMD write of `c` becomes the host's next operation, and the next turn is the host's
(assumption log 1). -/
def State.issueNext (s : State) (c : Word) : State :=
  { s with program := .write cmdOffset 4 c :: s.program, turns := .host :: s.turns }

end Sys2Proof.Machine
end

