-- ==== Sys2Proof/Machine/Step.lean ====
section
/-!
DEFINITION. One step of the machine, and how a command comes to be the next one.
-/

namespace Sys2Proof.Machine

/-- One step: one move of one agent (spec/20_memory.md R91). -/
def step (s : State) : Host.Outcome State Fault Refusal := nextMove s

/-- `s` with the command word `w` issued next: a CMD write in front of the host's program, and the
host's turn. Every command is one 32-bit word (spec/30_encoding.md R120), so `w` is taken as one. -/
def State.withFetchWord (s : State) (nbits w : Nat) : State :=
  s.issueNext (BitVec.ofNat 32 (w % 2 ^ nbits))

end Sys2Proof.Machine
end

