-- ==== Sys2Proof/Machine/HostProgram.lean ====
section
/-!
DEFINITION. Host programs: the statements of the assembly syntax (spec/30_encoding.md R127), the
expansions of the pseudo-instructions (R128) into host operations, and the host-side hexadecimal
rendering of the digest (spec/44_digest_output.md R243).
-/

namespace Sys2Proof.Machine

/-- A statement of a host program (R127, R128). -/
inductive HostStmt
  /-- A command mnemonic: `wr CMD, <word>`. -/
  | command (i : Instr)
  /-- `.word v`: any raw word, well-formed or not, written to CMD. -/
  | rawWord (v : Word)
  /-- `wr OFF, VALUE`. -/
  | wr (off : BitVec 13) (value : Word)
  /-- `rd OFF`. -/
  | rd (off : BitVec 13)
  /-- `wait`: poll STATUS until BUSY is 0. -/
  | wait
  /-- `absorbs "text"`: one ABSORB per byte of the UTF-8 encoding (spec/44_digest_output.md R247). -/
  | absorbs (text : String)
  /-- `loadstate v0, ..., v7`. -/
  | loadstate (v : Vector Word 8)
  /-- `loadblock w0, ..., w15`. -/
  | loadblock (w : Vector Word 16)
  /-- `hash "text", KREQ`. -/
  | hash (text : String) (kreq : BitVec 8)
  /-- `readdigest`. -/
  | readdigest
  deriving DecidableEq, Repr

/-- A write of a whole 32-bit register. -/
def HostOp.wr (off : BitVec 13) (v : Word) : HostOp := .write off 4 v

/-- A command as a host operation: a CMD write of its word (R120). -/
def HostOp.issue (i : Instr) : HostOp := HostOp.wr cmdOffset (encode i)

/-- One ABSORB per byte, in order (R128). -/
def absorbBytes (bytes : List Byte) : List HostOp := bytes.map fun b => HostOp.issue (.absorb b)

/-- The bytes the host absorbs for a text: its UTF-8 encoding (R247). -/
def textBytes (text : String) : List Byte := text.toUTF8.toList.map fun u => u.toBitVec

/-- The offset of H[i] (R81). -/
def digestOffset (i : Nat) : BitVec 13 := BitVec.ofNat 13 (0x040 + 4 * i)

/-- The eight reads of `readdigest` (R128, spec/44_digest_output.md R241). -/
def readDigestOps : List HostOp := (List.range 8).map fun i => .read (digestOffset i) 4

/-- `INIT`, the message's bytes, `FINISH`: the digest driver as a host program (spec/41_commands.md,
preamble; R128 `hash` without its `wait`). -/
def hashOps (kreq : BitVec 8) (hld : Bool) (bytes : List Byte) : List HostOp :=
  HostOp.issue (.init kreq hld) :: (absorbBytes bytes ++ [HostOp.issue .finish])

/-- One ABSORB per byte, from byte number `n` of the message on, with a RESUME after every byte that
fills a block: what a host writes when HOLD = 1 (spec/44_digest_output.md R244). -/
def absorbHeldBytes (n : Nat) : List Byte → List HostOp
  | [] => []
  | b :: rest =>
    HostOp.issue (.absorb b) ::
      (if n % 64 = 63 then HostOp.issue .resume :: absorbHeldBytes (n + 1) rest
       else absorbHeldBytes (n + 1) rest)

/-- The digest driver with HOLD = 1: a RESUME at every HELD, the one between the two padding blocks
among them (spec/44_digest_output.md R244, spec/42_padding_slicing.md R204). -/
def hashHeldOps (kreq : BitVec 8) (bytes : List Byte) : List HostOp :=
  HostOp.issue (.init kreq true) :: (absorbHeldBytes 0 bytes ++ HostOp.issue .finish ::
    (if bytes.length % 64 ≤ 55 then [] else [HostOp.issue .resume]))

/-- The expansion of a statement (R127, R128). -/
def HostStmt.expand : HostStmt → List HostOp
  | .command i => [HostOp.issue i]
  | .rawWord v => [HostOp.wr cmdOffset v]
  | .wr off v => [HostOp.wr off v]
  | .rd off => [.read off 4]
  | .wait => [.wait]
  | .absorbs text => absorbBytes (textBytes text)
  | .loadstate v =>
    (List.finRange 8).flatMap fun i => [HostOp.wr dinOffset v[i], HostOp.issue (.loadh i)]
  | .loadblock w =>
    (List.finRange 16).flatMap fun i => [HostOp.wr dinOffset w[i], HostOp.issue (.loadm i)]
  | .hash text kreq => hashOps kreq false (textBytes text) ++ [.wait]
  | .readdigest => readDigestOps

/-- The assembly text of a command (R127). Numbers are written in decimal, which R127 allows. -/
def commandText (i : Instr) : String :=
  match i with
  | .nop => "nop"
  | .init kreq hld => "init " ++ toString kreq.toNat ++ (if hld then ", hold" else "")
  | .absorb byte => "absorb " ++ toString byte.toNat
  | .finish => "finish"
  | .resume => "resume"
  | .loadh hidx => "loadh " ++ toString hidx.val
  | .loadm midx => "loadm " ++ toString midx.val
  | .compress => "compress"

/-- Numbers as a list of operands: `v0, ..., vn`. -/
def operandsText (l : List Word) : String :=
  String.intercalate ", " (l.map fun v => toString v.toNat)

/-- The assembly text of a statement (R127, R128). -/
def HostStmt.text : HostStmt → String
  | .command i => commandText i
  | .rawWord v => ".word " ++ toString v.toNat
  | .wr off v => "wr " ++ toString off.toNat ++ ", " ++ toString v.toNat
  | .rd off => "rd " ++ toString off.toNat
  | .wait => "wait"
  | .absorbs text => "absorbs \"" ++ text ++ "\""
  | .loadstate v => "loadstate " ++ operandsText v.toList
  | .loadblock w => "loadblock " ++ operandsText w.toList
  | .hash text kreq => "hash \"" ++ text ++ "\", " ++ toString kreq.toNat
  | .readdigest => "readdigest"

/-- The host operations of a program, statement by statement. -/
def assemble (p : List HostStmt) : List HostOp := p.flatMap HostStmt.expand

/-- The 32 digest bytes: `D[4i + j] = byte_j(H[i])` (spec/44_digest_output.md R240). -/
def digestBytes (h : Vector Word 8) : List Byte :=
  h.toList.flatMap fun w => [byteOf w 0, byteOf w 1, byteOf w 2, byteOf w 3]

/-- One lowercase hexadecimal digit. -/
def hexDigit (n : Nat) : Char :=
  if n < 10 then Char.ofNat (48 + n) else Char.ofNat (87 + n)

/-- `hex(D)`: two lowercase digits a byte, high nibble first (spec/44_digest_output.md R243). -/
def digestHex (h : Vector Word 8) : String :=
  String.ofList ((digestBytes h).flatMap fun b => [hexDigit (b.toNat / 16), hexDigit (b.toNat % 16)])

end Sys2Proof.Machine
end

