-- ==== Sys2Proof/Machine/Reference.lean ====
section
/-!
DEFINITION. The source's algorithm as pure functions, with no engine: padding
(spec/42_padding_slicing.md R202, R203, R206), slicing, the schedule and the 64 rounds
(spec/43_schedule_compression.md R220, R221, R225) and the digest (spec/44_digest_output.md R244).
The engine never uses this file; statements compare the engine with it.
-/

namespace Sys2Proof.Machine.Reference

/-- The zero-byte count `z = (55 - L) mod 64` (R202, R203). -/
def zeroCount (len : Nat) : Nat := (119 - len % 64) % 64

/-- The number of blocks of the padded message, `floor((L + 8) / 64) + 1` (R204). -/
def blockCount (len : Nat) : Nat := (len + 8) / 64 + 1

/-- The number of blocks FINISH compresses: one when `L mod 64 <= 55`, two otherwise (R204). -/
def finishBlocks (len : Nat) : Nat := if len % 64 ≤ 55 then 1 else 2

/-- The padding of a message of `len` bytes (R206): the marker, the zero bytes, and the bit length
as eight bytes, big-endian. -/
def padding (len : Nat) : List Byte :=
  0x80#8 :: (List.replicate (zeroCount len) 0x00#8 ++
    (List.range 8).map (lengthByte (BitVec.ofNat 64 (8 * len))))

/-- The padded message (R206). -/
def padded (msg : List Byte) : List Byte := msg ++ padding msg.length

/-- The first 64 bytes of a list as a block. -/
def firstBlock (l : List Byte) : Vector Byte 64 := Vector.ofFn fun i : Fin 64 => l.getD i.val 0#8

/-- The first `n` 64-byte blocks of a list, in order, non-overlapping (R206). -/
def blocks : Nat → List Byte → List (Vector Byte 64)
  | 0, _ => []
  | n + 1, l => firstBlock l :: blocks n (l.drop 64)

/-- The schedule with the words below `16 + n` computed (R201, R220). -/
def scheduleUpTo (blk : Vector Byte 64) : Nat → Vector Word 64
  | 0 => Vector.ofFn fun i : Fin 64 => if h : i.val < 16 then blockWord blk ⟨i.val, h⟩ else 0#32
  | n + 1 =>
    let w := scheduleUpTo blk n
    if h : n < 48 then
      w.set (n + 16) (scheduleWord w[n + 14] w[n + 9] w[n + 1] w[n]) (by omega)
    else w

/-- The 64-word schedule of a block (R220). -/
def schedule (blk : Vector Byte 64) : Vector Word 64 := scheduleUpTo blk 48

/-- The working variables after the first `n` rounds, from `v` (R221). -/
def varsAfter (w : Vector Word 64) (v : Vector Word 8) : Nat → Vector Word 8
  | 0 => v
  | n + 1 =>
    let v' := varsAfter w v n
    if h : n < 64 then roundVars v' (roundT1 v' Rom.k[n] w[n]) (roundT2 v') else v'

/-- `compress(Hin, B)` of R225: the word-wise sum of the input state and the working variables after
64 rounds. -/
def compress (hin : Vector Word 8) (blk : Vector Byte 64) : Vector Word 8 :=
  addWords hin (varsAfter (schedule blk) hin 64)

/-- The digest words of a message: IV carried through the padded message's blocks (R244). -/
def digest (msg : List Byte) : Vector Word 8 :=
  (blocks (blockCount msg.length) (padded msg)).foldl compress Rom.iv

end Sys2Proof.Machine.Reference
end

