-- ==== Sys2Proof/Safety.lean ====
section
/-!
DEFINITION. What a good state is, and what a safe run is. `EngineInv` is spec/10_state.md R56, made
inductive: beside R56's clauses it says that t is 0 outside a block (R32), where the length bytes
stand (R34), that FILL follows L until the padding starts (spec/42_padding_slicing.md R202) and that
the error registers are empty outside ERROR (spec/60_exceptions.md R263, R270).
-/

namespace Sys2Proof.Safety

open Sys2Proof.Machine

/-- For LEN1..LEN7, the number j of the length byte appended next (R34). -/
def lengthIndex : PadState → Option Nat
  | .len1 => some 1
  | .len2 => some 2
  | .len3 => some 3
  | .len4 => some 4
  | .len5 => some 5
  | .len6 => some 6
  | .len7 => some 7
  | .none | .mark | .zero | .last => none

/-- R56 (a), with R32. -/
def ReadyShape (e : Engine) : Prop := e.fill.toNat ≤ 63 ∧ e.padst = .none ∧ e.t = 0#7

/-- R56 (d). -/
def HeldShape (e : Engine) : Prop :=
  e.fill = 0#7 ∧ e.t = 0#7 ∧ (e.padst = .none ∨ e.padst = .zero)

/-- R56 (e). -/
def DoneShape (e : Engine) : Prop :=
  e.fill = 0#7 ∧ e.t = 0#7 ∧ e.padst = .last ∧ e.first = false

/-- R56 (b), with R32 and R34: the length byte j stands at position 56 + j. -/
def PadShape (e : Engine) : Prop :=
  e.fill.toNat ≤ 63 ∧ e.padst ≠ .none ∧ e.padst ≠ .last ∧ e.t = 0#7 ∧
  ∀ j, lengthIndex e.padst = some j → e.fill.toNat = 56 + j

/-- R56 (c), (d): a block is a raw block, or a full one that ends in NONE, ZERO or LAST. -/
def BlockShape (e : Engine) : Prop :=
  (e.fill = 0#7 ∧ e.padst = .none) ∨
  (e.fill = 64#7 ∧ (e.padst = .none ∨ e.padst = .zero ∨ e.padst = .last))

/-- R56 (a) to (e) and (i), phase by phase, with the index ranges of R32. -/
def PhaseShape (e : Engine) : Prop :=
  match e.phase with
  | .ready => ReadyShape e
  | .pad   => PadShape e
  | .slice => BlockShape e ∧ e.t = 0#7
  | .sched => BlockShape e ∧ 16 ≤ e.t.toNat ∧ e.t.toNat ≤ 63
  | .round => BlockShape e ∧ e.t.toNat ≤ 63
  | .final => BlockShape e ∧ e.t = 64#7
  | .held  => HeldShape e
  | .done  => DoneShape e
  | .error => ReadyShape e ∨ HeldShape e ∨ DoneShape e

/-- The invariant of the engine's state (R56). -/
structure EngineInv (e : Engine) : Prop where
  /-- (a) to (e), (i). -/
  shape     : PhaseShape e
  /-- (f). -/
  reck_le   : e.reck.toNat ≤ 64
  /-- (f). -/
  reccnt_le : e.reccnt.toNat ≤ e.reck.toNat
  /-- (g). -/
  length_le : e.L.toNat ≤ 2 ^ 61 - 1
  /-- (h). -/
  lbits_eq  : e.padst ≠ .none → e.lbits = 8#64 * e.L
  /-- Until the padding starts, FILL counts the message modulo 64 (R202). -/
  fill_mod  : e.padst = .none → e.fill.toNat % 64 = e.L.toNat % 64
  /-- ERRCODE is set in ERROR (R263). -/
  error_set : e.phase = .error → e.errcode ≠ .none
  /-- ERRCODE and ERRCMD are 0 elsewhere (R270). -/
  error_off : e.phase ≠ .error → e.errcode = .none ∧ e.errcmd = 0#32

/-- What stands held at the port is a CMD write of the host (spec/20_memory.md R92). -/
def PortInv (s : State) : Prop :=
  s.held = true → ∃ v rest, s.program = .write cmdOffset 4 v :: rest

/-- The invariant of the machine. -/
structure Inv (s : State) : Prop where
  engine : EngineInv s.eng
  port   : PortInv s

/-- A run of `n` steps is safe when no step of it stops. -/
def SafeRun (n : Nat) (s : State) : Prop := ∃ s', Host.Core.run Sys2Proof.core n s = .next s'

/-- A schedule in which the platform asserts no reset. -/
def NoReset (turns : List Turn) : Prop := Turn.reset ∉ turns

end Sys2Proof.Safety
end

