-- ==== Sys2Proof/Certificates/Slice0/Obligations.lean ====
section
/-!
DEFINITION. The statements for the provers, from the numbered rules of spec/. Each docstring names
the rule it formalises. `Claims` holds the few words the statements share.
-/

namespace Sys2Proof.Claims

open Sys2Proof Sys2Proof.Machine

/-- READY, HELD, DONE and ERROR: the phases in which a command is accepted (R31, R92). -/
def Idle (s : State) : Prop :=
  s.eng.phase = .ready ∨ s.eng.phase = .held ∨ s.eng.phase = .done ∨ s.eng.phase = .error

/-- The idle phases other than ERROR. -/
def Open (s : State) : Prop :=
  s.eng.phase = .ready ∨ s.eng.phase = .held ∨ s.eng.phase = .done

/-- What error entry leaves (R263): ERRCODE, ERRCMD and PHASE, and nothing else. -/
def errorState (s : State) (code : ErrCode) (c : Word) : State :=
  { s with eng := { s.eng with errcode := code, errcmd := c, phase := .error } }

/-- The engine as INIT leaves it (R171), written out: every element of R30. -/
def initialised (reck : BitVec 7) (hold : Bool) (din : Word) : Engine where
  phase   := .ready
  t       := 0#7
  fill    := 0#7
  padst   := .none
  H       := Rom.iv
  V       := Vector.replicate 8 0#32
  t1r     := 0#32
  t2r     := 0#32
  W       := Vector.replicate 64 0#32
  blk     := Vector.replicate 64 0#8
  records := Vector.replicate 64 ⟨0#32, 0#32, 0#32, 0#32, 0#32, Vector.replicate 8 0#32⟩
  reck    := reck
  reccnt  := 0#7
  hold    := hold
  first   := true
  L       := 0#64
  lbits   := 0#64
  blkcnt  := 0#64
  errcode := .none
  errcmd  := 0#32
  din     := din

/-- The word `c` is the word of the command `i`, in both directions. -/
def HasWord (i : Instr) (c : Word) : Prop := encode i = c ∧ decode c = .command i

/-- Every word of opcode `op` with a bit of `reserved` set raises ILLEGAL_COMMAND in READY, HELD and
DONE, with that word in ERRCMD. -/
def IllegalWords (op : BitVec 8) (reserved : Word) : Prop :=
  ∀ (c : Word) (s : State), c.extractLsb' 24 8 = op → c &&& reserved ≠ 0#32 → Open s →
    acceptWord c s = .next (errorState s .illegalCommand c)

/-- The command raises PROTOCOL_ERROR in HELD and DONE. -/
def ProtocolErrorOutsideReady (i : Instr) : Prop :=
  ∀ s : State, s.eng.phase = .held ∨ s.eng.phase = .done →
    exec i s = .next (errorState s .protocolError (encode i))

/-- A step on which the host moves (the turns are the model's, assumption log 2): no reset, and the engine is idle, or the turn is the host's and
nothing stands held at the command port. -/
def HostMoves (s : State) : Prop :=
  s.turn ≠ .reset ∧ (Idle s ∨ (s.turn = .host ∧ s.held = false))

/-- The state after the first host operation completes with `r` on the host's move. -/
def afterAccess (s : State) (rest : List HostOp) (r : BusResponse) : State :=
  { s with program := rest, responses := s.responses ++ [r], held := false, turns := s.turns.tail }

/-- The host's next operation writes a well-formed INIT to CMD, and the engine is idle: a step that
is no reset accepts it. -/
def InitAccepted (s : State) : Prop :=
  Idle s ∧ ∃ c kreq hld rest, s.program = .write cmdOffset 4 c :: rest ∧
    decode c = .command (.init kreq hld)

/-- Two engines that differ in the round recorder's elements at most. -/
def SameButRecorder (e e' : Engine) : Prop :=
  { e with reck := e'.reck, reccnt := e'.reccnt, records := e'.records } = e'

end Sys2Proof.Claims

open Sys2Proof Sys2Proof.Machine Sys2Proof.Safety Sys2Proof.Claims

/-! ### Encoding -/

/-- R123, R125: decoding and encoding agree in both directions, for every command with every operand
value and for every word. -/
def Obligations.DecodeAndEncodeAgree : Prop :=
  ∀ (i : Instr) (c : Word), decode c = .command i ↔ c = encode i

/-- R123, R125: a word is well-formed exactly when one row of the table matches it, never two, and
exactly then it decodes to a command. -/
def Obligations.WellFormedIffExactlyOneRowMatches : Prop :=
  ∀ c : Word,
    (wellFormed c = true ↔
      (encodingTable.filter fun r => c &&& r.mask == r.pattern).length = 1) ∧
    (encodingTable.filter fun r => c &&& r.mask == r.pattern).length ≤ 1 ∧
    (wellFormed c = true ↔ ∃ i, decode c = .command i)

/-- R121, R122, R123, and the words of spec/95_test_vectors.md: words written out from the encodings
decode to the commands they stand for. -/
def Obligations.WrittenOutWordsDecode : Prop :=
  decode 0x00000000#32 = .command .nop ∧
  decode 0x010000C8#32 = .command (.init 200#8 false) ∧
  decode 0x01000105#32 = .command (.init 5#8 true) ∧
  decode 0x02000061#32 = .command (.absorb 0x61#8) ∧
  decode 0x03000000#32 = .command .finish ∧
  decode 0x04000000#32 = .command .resume ∧
  decode 0x05000003#32 = .command (.loadh 3) ∧
  decode 0x0600000E#32 = .command (.loadm 14) ∧
  decode 0x07000000#32 = .command .compress ∧
  decode 0x02000100#32 = .illegal .reservedBitSet ∧
  decode 0xFF000000#32 = .illegal .unassignedOpcode

/-! ### Commands -/

/-- R170: NOP, in every idle phase, changes nothing; its reserved words are illegal. -/
def Obligations.NopChangesNothing : Prop :=
  HasWord .nop 0x00000000#32 ∧
  (∀ s : State, Idle s → exec .nop s = .next s) ∧
  IllegalWords 0x00#8 0x00FFFFFF#32

/-- R171: INIT, legal in every idle phase, reinitialises every element but DIN; RECK is
min(KREQ, 64) and HOLD is HLD. -/
def Obligations.InitReinitialisesTheEngine : Prop :=
  (∀ (kreq : BitVec 8) (hld : Bool),
    HasWord (.init kreq hld) (0x01000000#32 ||| ((if hld then 1#32 else 0#32) <<< 8) |||
      kreq.setWidth 32)) ∧
  (∀ (kreq : BitVec 8) (hld : Bool) (s : State), Idle s →
    ∃ reck : BitVec 7, reck.toNat = min kreq.toNat 64 ∧
      exec (.init kreq hld) s = .next { s with eng := initialised reck hld s.eng.din }) ∧
  IllegalWords 0x01#8 0x00FFFE00#32

/-- R172: ABSORB in READY stores the byte, counts it and enters SLICE when the block is full; at
L = 2^61 - 1 it raises INPUT_TOO_LARGE; its other exceptions are those of the rule. -/
def Obligations.AbsorbAppendsOneByte : Prop :=
  (∀ byte : Byte, HasWord (.absorb byte) (0x02000000#32 ||| byte.setWidth 32)) ∧
  (∀ (byte : Byte) (s : State) (h : s.eng.fill.toNat < 64), s.eng.phase = .ready →
    s.eng.L.toNat ≠ 2 ^ 61 - 1 →
    exec (.absorb byte) s = .next { s with eng := { s.eng with
      blk := s.eng.blk.set s.eng.fill.toNat byte h
      fill := s.eng.fill + 1#7
      L := s.eng.L + 1#64
      phase := if s.eng.fill.toNat = 63 then .slice else .ready } }) ∧
  (∀ (byte : Byte) (s : State), s.eng.phase = .ready → s.eng.L.toNat = 2 ^ 61 - 1 →
    exec (.absorb byte) s = .next (errorState s .inputTooLarge (encode (.absorb byte)))) ∧
  (∀ byte : Byte, ProtocolErrorOutsideReady (.absorb byte)) ∧
  IllegalWords 0x02#8 0x00FFFF00#32

/-- R173: FINISH in READY latches 8 L in LBITS and enters PAD at MARK; the bit length fits. -/
def Obligations.FinishStartsThePadding : Prop :=
  HasWord .finish 0x03000000#32 ∧
  (∀ s : State, s.eng.phase = .ready → s.eng.L.toNat ≤ 2 ^ 61 - 1 →
    ∃ bits : Dword, bits.toNat = 8 * s.eng.L.toNat ∧
      exec .finish s = .next { s with eng := { s.eng with
        lbits := bits, padst := .mark, phase := .pad } }) ∧
  ProtocolErrorOutsideReady .finish ∧
  IllegalWords 0x03#8 0x00FFFFFF#32

/-- R174: RESUME in HELD goes to READY when no padding has started and to PAD otherwise; it raises
PROTOCOL_ERROR in READY and DONE. -/
def Obligations.ResumeLeavesHeld : Prop :=
  HasWord .resume 0x04000000#32 ∧
  (∀ s : State, s.eng.phase = .held → s.eng.padst = .none →
    exec .resume s = .next { s with eng := { s.eng with phase := .ready } }) ∧
  (∀ s : State, s.eng.phase = .held → s.eng.padst ≠ .none →
    exec .resume s = .next { s with eng := { s.eng with phase := .pad } }) ∧
  (∀ s : State, s.eng.phase = .ready ∨ s.eng.phase = .done →
    exec .resume s = .next (errorState s .protocolError (encode .resume))) ∧
  IllegalWords 0x04#8 0x00FFFFFF#32

/-- R180: LOADH in READY, with any FILL, loads one hash-state word from DIN and changes nothing else. -/
def Obligations.LoadhWritesOneHashWord : Prop :=
  (∀ hidx : Fin 8, HasWord (.loadh hidx) (0x05000000#32 ||| BitVec.ofNat 32 hidx.val)) ∧
  (∀ (hidx : Fin 8) (s : State), s.eng.phase = .ready →
    ∃ h : Vector Word 8,
      exec (.loadh hidx) s = .next { s with eng := { s.eng with H := h } } ∧
      h[hidx] = s.eng.din ∧ ∀ j : Fin 8, j ≠ hidx → h[j] = s.eng.H[j]) ∧
  (∀ hidx : Fin 8, ProtocolErrorOutsideReady (.loadh hidx)) ∧
  IllegalWords 0x05#8 0x00FFFFF8#32

/-- R181: LOADM in READY with FILL = 0 loads bytes 4i..4i+3 of the block from DIN, most significant
byte first, and changes nothing else; with FILL not 0 it raises INVARIANT_VIOLATION. -/
def Obligations.LoadmWritesFourBlockBytes : Prop :=
  (∀ midx : Fin 16, HasWord (.loadm midx) (0x06000000#32 ||| BitVec.ofNat 32 midx.val)) ∧
  (∀ (midx : Fin 16) (s : State), s.eng.phase = .ready → s.eng.fill = 0#7 →
    ∃ b : Vector Byte 64,
      exec (.loadm midx) s = .next { s with eng := { s.eng with blk := b } } ∧
      (∀ (j : Fin 64), j.val / 4 = midx.val →
        b[j] = s.eng.din.extractLsb' (24 - 8 * (j.val % 4)) 8) ∧
      (∀ (j : Fin 64), j.val / 4 ≠ midx.val → b[j] = s.eng.blk[j])) ∧
  (∀ (midx : Fin 16) (s : State), s.eng.phase = .ready → s.eng.fill ≠ 0#7 →
    exec (.loadm midx) s = .next (errorState s .invariantViolation (encode (.loadm midx)))) ∧
  (∀ midx : Fin 16, ProtocolErrorOutsideReady (.loadm midx)) ∧
  IllegalWords 0x06#8 0x00FFFFF0#32

/-- R182: COMPRESS in READY with FILL = 0 enters SLICE and changes nothing else; with FILL not 0 it
raises INVARIANT_VIOLATION. -/
def Obligations.CompressStartsABlock : Prop :=
  HasWord .compress 0x07000000#32 ∧
  (∀ s : State, s.eng.phase = .ready → s.eng.fill = 0#7 →
    exec .compress s = .next { s with eng := { s.eng with phase := .slice } }) ∧
  (∀ s : State, s.eng.phase = .ready → s.eng.fill ≠ 0#7 →
    exec .compress s = .next (errorState s .invariantViolation (encode .compress))) ∧
  ProtocolErrorOutsideReady .compress ∧
  IllegalWords 0x07#8 0x00FFFFFF#32

/-- The frame of the commands other than INIT (R170 to R182, R263): what each leaves unchanged when
it answers a next state, element by element of R30 and of the host's side of the bus. ABSORB may
change FILL, L and BLK; FINISH PADST and LBITS; LOADH H; LOADM BLK; PHASE may change; the error
registers change by error entry only. INIT's frame is DIN alone (`InitReinitialisesTheEngine`). -/
def Obligations.CommandFrame : Prop :=
  ∀ (i : Instr) (s s' : State), (∀ kreq hld, i ≠ .init kreq hld) → exec i s = .next s' →
    s'.program = s.program ∧ s'.responses = s.responses ∧ s'.held = s.held ∧ s'.turns = s.turns ∧
    s'.eng.t = s.eng.t ∧ s'.eng.V = s.eng.V ∧ s'.eng.t1r = s.eng.t1r ∧ s'.eng.t2r = s.eng.t2r ∧
    s'.eng.W = s.eng.W ∧ s'.eng.records = s.eng.records ∧ s'.eng.reck = s.eng.reck ∧
    s'.eng.reccnt = s.eng.reccnt ∧ s'.eng.hold = s.eng.hold ∧ s'.eng.first = s.eng.first ∧
    s'.eng.blkcnt = s.eng.blkcnt ∧ s'.eng.din = s.eng.din ∧
    ((∀ b, i ≠ .absorb b) → s'.eng.fill = s.eng.fill ∧ s'.eng.L = s.eng.L) ∧
    (i ≠ .finish → s'.eng.padst = s.eng.padst ∧ s'.eng.lbits = s.eng.lbits) ∧
    ((∀ j, i ≠ .loadh j) → s'.eng.H = s.eng.H) ∧
    ((∀ b, i ≠ .absorb b) → (∀ j, i ≠ .loadm j) → s'.eng.blk = s.eng.blk) ∧
    (s'.eng.phase ≠ .error → s'.eng.errcode = s.eng.errcode ∧ s'.eng.errcmd = s.eng.errcmd)

/-! ### Acceptance and errors -/

/-- R166: the legality table, cell by cell, for every command and every idle phase, and its last row
for the illegal words. A cell `executes` answers a next state outside ERROR, but for an ABSORB at
L = 2^61 - 1, whose own rule raises INPUT_TOO_LARGE (R172); LOADM and COMPRESS in READY raise
INVARIANT_VIOLATION when FILL is not 0. -/
def Obligations.LegalityTable : Prop :=
  (∀ (i : Instr) (s : State), s.eng.phase = .error → (∀ kreq hld, i ≠ .init kreq hld) →
    exec i s = .next s) ∧
  (∀ (i : Instr) (s : State),
    (i = .finish ∨ i = .compress ∨ (∃ b, i = .absorb b) ∨ (∃ j, i = .loadh j) ∨
      (∃ j, i = .loadm j)) →
    s.eng.phase = .held ∨ s.eng.phase = .done →
    exec i s = .next (errorState s .protocolError (encode i))) ∧
  (∀ s : State, s.eng.phase = .ready ∨ s.eng.phase = .done →
    exec .resume s = .next (errorState s .protocolError (encode .resume))) ∧
  (∀ (i : Instr) (s : State), s.eng.phase = .ready →
    (i = .nop ∨ i = .finish ∨ (∃ kreq hld, i = .init kreq hld) ∨ (∃ j, i = .loadh j) ∨
      ((∃ b, i = .absorb b) ∧ s.eng.fill.toNat ≤ 63 ∧ s.eng.L.toNat ≠ 2 ^ 61 - 1) ∨
      ((i = .compress ∨ ∃ j, i = .loadm j) ∧ s.eng.fill = 0#7)) →
    ∃ s', exec i s = .next s' ∧ s'.eng.phase ≠ .error) ∧
  (∀ (b : Byte) (s : State), s.eng.phase = .ready → s.eng.L.toNat = 2 ^ 61 - 1 →
    exec (.absorb b) s = .next (errorState s .inputTooLarge (encode (.absorb b)))) ∧
  (∀ (i : Instr) (s : State), s.eng.phase = .ready → (i = .compress ∨ ∃ j, i = .loadm j) →
    s.eng.fill ≠ 0#7 →
    exec i s = .next (errorState s .invariantViolation (encode i))) ∧
  (∀ (i : Instr) (s : State),
    (s.eng.phase = .held ∧ (i = .nop ∨ i = .resume ∨ ∃ kreq hld, i = .init kreq hld)) ∨
    (s.eng.phase = .done ∧ (i = .nop ∨ ∃ kreq hld, i = .init kreq hld)) ∨
    (s.eng.phase = .error ∧ ∃ kreq hld, i = .init kreq hld) →
    ∃ s', exec i s = .next s' ∧ s'.eng.phase ≠ .error) ∧
  (∀ (c : Word) (s : State), wellFormed c = false → Open s →
    acceptWord c s = .next (errorState s .illegalCommand c)) ∧
  (∀ (c : Word) (s : State), wellFormed c = false → s.eng.phase = .error →
    acceptWord c s = .next s)

/-- R169: in ERROR every word is ignored but a well-formed INIT, which executes and leaves ERROR. -/
def Obligations.ErrorPhaseIgnoresAllButInit : Prop :=
  ∀ (c : Word) (s : State), s.eng.phase = .error →
    (∀ kreq hld, decode c = .command (.init kreq hld) →
      ∃ reck : BitVec 7, reck.toNat = min kreq.toNat 64 ∧
        acceptWord c s = .next { s with eng := initialised reck hld s.eng.din }) ∧
    ((¬ ∃ kreq hld, decode c = .command (.init kreq hld)) → acceptWord c s = .next s)

/-- R165, R265: the order of the checks. A word accepted outside ERROR raises ILLEGAL_COMMAND when it
is not well-formed, whatever the phase; a well-formed one raises PROTOCOL_ERROR when its phase is
not legal, whatever else would apply; else the command's own rule runs. -/
def Obligations.ErrorChecksInOrder : Prop :=
  ∀ (c : Word) (s : State), Open s →
    (wellFormed c = false → acceptWord c s = .next (errorState s .illegalCommand c)) ∧
    (wellFormed c = true → ∃ i, decode c = .command i ∧
      (legalIn i s.eng.phase = false →
        acceptWord c s = .next (errorState s .protocolError c)) ∧
      (legalIn i s.eng.phase = true → acceptWord c s = exec i s ∧
        ∀ s', acceptWord c s = .next s' → s'.eng.phase = .error →
          s'.eng.errcode = .inputTooLarge ∨ s'.eng.errcode = .invariantViolation))

/-- R263: whichever word raises an error, ERRCODE, ERRCMD (the word itself) and PHASE change
and nothing else does, and in ERROR the flags BUSY and DV read 0. -/
def Obligations.ErrorEntryChangesNothingElse : Prop :=
  ∀ (c : Word) (s s' : State), Open s → acceptWord c s = .next s' → s'.eng.phase = .error →
    s'.eng.errcode ≠ .none ∧ s' = errorState s s'.eng.errcode c ∧
    (s'.eng.status).getLsbD 4 = false ∧ (s'.eng.status).getLsbD 5 = false

/-- R264, R270, R272: from ERROR a step leaves every element but DIN as it is, the first error's code
and word with them, unless it is the reset or accepts a well-formed INIT. -/
def Obligations.FirstErrorIsKept : Prop :=
  ∀ s s' : State, s.eng.phase = .error → step s = .next s' →
    s'.eng = { s.eng with din := s'.eng.din } ∨ s.turn = .reset ∨ InitAccepted s

/-- R261: from every state of the invariant (outside it the model may stop by its own `Fault`,
assumption log 6), a busy engine's micro-step goes through, raises no error
and leaves the error registers alone. -/
def Obligations.MicroStepsRaiseNoError : Prop :=
  ∀ e : Engine, EngineInv e → e.phase.busy = true →
    ∃ e', microStep e = .ok e' ∧ e'.phase ≠ .error ∧ e'.errcode = e.errcode ∧
      e'.errcmd = e.errcmd

/-! ### Micro-steps -/

/-- R200: the PAD micro-step, case by case of PADST. -/
def Obligations.PadStepAppendsOneByte : Prop :=
  ∀ (e : Engine) (h : e.fill.toNat < 64), e.phase = .pad →
    ∀ (b : Byte) (p : PadState),
    ((e.padst = .mark ∧ b = 0x80#8 ∧ p = .zero) ∨
     (e.padst = .zero ∧ e.fill.toNat ≠ 56 ∧ b = 0x00#8 ∧ p = .zero) ∨
     (e.padst = .zero ∧ e.fill.toNat = 56 ∧ b = e.lbits.extractLsb' 56 8 ∧ p = .len1) ∨
     (e.padst = .len1 ∧ b = e.lbits.extractLsb' 48 8 ∧ p = .len2) ∨
     (e.padst = .len2 ∧ b = e.lbits.extractLsb' 40 8 ∧ p = .len3) ∨
     (e.padst = .len3 ∧ b = e.lbits.extractLsb' 32 8 ∧ p = .len4) ∨
     (e.padst = .len4 ∧ b = e.lbits.extractLsb' 24 8 ∧ p = .len5) ∨
     (e.padst = .len5 ∧ b = e.lbits.extractLsb' 16 8 ∧ p = .len6) ∨
     (e.padst = .len6 ∧ b = e.lbits.extractLsb' 8 8 ∧ p = .len7) ∨
     (e.padst = .len7 ∧ b = e.lbits.extractLsb' 0 8 ∧ p = .last)) →
    microStep e = .ok { e with
      blk := e.blk.set e.fill.toNat b h
      fill := e.fill + 1#7
      padst := p
      phase := if e.fill.toNat = 63 then .slice else .pad }

/-- R201, R89 (a): the SLICE micro-step reads the block as sixteen big-endian words into W[0..15];
W[16..63] and everything else but t and PHASE are unchanged. -/
def Obligations.SliceStepReadsBigEndianWords : Prop :=
  ∀ e : Engine, e.phase = .slice →
    ∃ w : Vector Word 64,
      microStep e = .ok { e with W := w, t := 16#7, phase := .sched } ∧
      (∀ (i : Nat) (h : i < 16), w[i] =
        (e.blk[4 * i] ++ e.blk[4 * i + 1] ++ e.blk[4 * i + 2] ++ e.blk[4 * i + 3] : BitVec 32)) ∧
      (∀ (i : Nat) (h : i < 64), 16 ≤ i → w[i] = e.W[i])

/-- R220: the SCHED micro-step computes W[t] from four earlier words; at t = 63 it loads V from H and
starts the rounds. -/
def Obligations.SchedStepComputesOneWord : Prop :=
  ∀ (e : Engine) (h : 16 ≤ e.t.toNat ∧ e.t.toNat < 64), e.phase = .sched →
    ∃ w : Vector Word 64,
      w[e.t.toNat] = ssig1 e.W[e.t.toNat - 2] + e.W[e.t.toNat - 7] +
        ssig0 e.W[e.t.toNat - 15] + e.W[e.t.toNat - 16] ∧
      (∀ (i : Nat) (hi : i < 64), i ≠ e.t.toNat → w[i] = e.W[i]) ∧
      (e.t.toNat ≠ 63 → microStep e = .ok { e with W := w, t := e.t + 1#7 }) ∧
      (e.t.toNat = 63 →
        microStep e = .ok { e with W := w, V := e.H, t := 0#7, phase := .round })

/-- R221, R222: the ROUND micro-step: T1, T2, the simultaneous assignment, the record when
t < k_eff, and the next index. -/
def Obligations.RoundStepMixesAndRecords : Prop :=
  ∀ (e : Engine) (h : e.t.toNat < 64), e.phase = .round →
    ∀ (t1 t2 : Word) (v : Vector Word 8),
    t1 = e.V[7] + bsig1 e.V[4] + ch e.V[4] e.V[5] e.V[6] + Rom.k[e.t.toNat] + e.W[e.t.toNat] →
    t2 = bsig0 e.V[0] + maj e.V[0] e.V[1] e.V[2] →
    v = #v[t1 + t2, e.V[0], e.V[1], e.V[2], e.V[3] + t1, e.V[4], e.V[5], e.V[6]] →
    ((e.first = true ∧ e.t.toNat < e.reck.toNat →
      microStep e = .ok { e with
        V := v, t1r := t1, t2r := t2, t := e.t + 1#7,
        phase := if e.t.toNat = 63 then .final else .round,
        records := e.records.set e.t.toNat
          ⟨e.t.setWidth 32, e.W[e.t.toNat], Rom.k[e.t.toNat], t1, t2, v⟩ h,
        reccnt := e.t + 1#7 }) ∧
     (¬ (e.first = true ∧ e.t.toNat < e.reck.toNat) →
      microStep e = .ok { e with
        V := v, t1r := t1, t2r := t2, t := e.t + 1#7,
        phase := if e.t.toNat = 63 then .final else .round }))

/-- R224: the FINAL micro-step adds V into H, counts the block, clears FIRST, FILL and t, and chooses
the next phase from PADST and HOLD. -/
def Obligations.FinalStepAddsAndChoosesThePhase : Prop :=
  ∀ e : Engine, e.phase = .final →
    ∃ (h : Vector Word 8) (p : Phase),
      microStep e = .ok { e with
        H := h, blkcnt := e.blkcnt + 1#64, first := false, fill := 0#7, t := 0#7, phase := p } ∧
      (∀ (i : Nat) (hi : i < 8), h[i] = e.H[i] + e.V[i]) ∧
      (e.padst = .last → p = .done) ∧
      (e.padst ≠ .last → e.hold = true → p = .held) ∧
      (e.padst ≠ .last → e.hold = false → e.padst ≠ .none → p = .pad) ∧
      (e.padst = .none → e.hold = false → p = .ready)

/-! ### Primitives -/

/-- R152, R153: rotr and shr bit by bit, for every amount in range. -/
def Obligations.RotateAndShiftBits : Prop :=
  ∀ (x : Word) (n i : Nat), n < 32 → i < 32 →
    (rotr x n).getLsbD i = x.getLsbD ((i + n) % 32) ∧
    (shr x n).getLsbD i = if i + n ≤ 31 then x.getLsbD (i + n) else false

/-- R154, R155: ch picks y's bit where x's is 1 and z's where it is 0; maj is the majority of the
three bits. -/
def Obligations.ChooseAndMajorityBits : Prop :=
  ∀ (x y z : Word) (i : Nat), i < 32 →
    (ch x y z).getLsbD i = (if x.getLsbD i then y.getLsbD i else z.getLsbD i) ∧
    ((maj x y z).getLsbD i = true ↔
      2 ≤ [x.getLsbD i, y.getLsbD i, z.getLsbD i].count true)

/-- R156 to R159: the four sigma functions bit by bit. Bits above 31 of a word read false, so the
shifted component brings in zeros. -/
def Obligations.SigmaFunctionBits : Prop :=
  ∀ (x : Word) (i : Nat), i < 32 →
    (bsig0 x).getLsbD i = Bool.xor (Bool.xor (x.getLsbD ((i + 2) % 32))
      (x.getLsbD ((i + 13) % 32))) (x.getLsbD ((i + 22) % 32)) ∧
    (bsig1 x).getLsbD i = Bool.xor (Bool.xor (x.getLsbD ((i + 6) % 32))
      (x.getLsbD ((i + 11) % 32))) (x.getLsbD ((i + 25) % 32)) ∧
    (ssig0 x).getLsbD i = Bool.xor (Bool.xor (x.getLsbD ((i + 7) % 32))
      (x.getLsbD ((i + 18) % 32))) (x.getLsbD (i + 3)) ∧
    (ssig1 x).getLsbD i = Bool.xor (Bool.xor (x.getLsbD ((i + 17) % 32))
      (x.getLsbD ((i + 19) % 32))) (x.getLsbD (i + 10))

/-- R151: add32 is the integer sum reduced modulo 2^32, once for the four-term sum of the schedule
and the five-term sum T1. -/
def Obligations.SumsAreReducedModulo32Bits : Prop :=
  (∀ x y : Word, (add32 x y).toNat = (x.toNat + y.toNat) % 2 ^ 32) ∧
  (∀ w2 w7 w15 w16 : Word, (scheduleWord w2 w7 w15 w16).toNat =
    ((ssig1 w2).toNat + w7.toNat + (ssig0 w15).toNat + w16.toNat) % 2 ^ 32) ∧
  (∀ (v : Vector Word 8) (k w : Word), (roundT1 v k w).toNat =
    (v[7].toNat + (bsig1 v[4]).toNat + (ch v[4] v[5] v[6]).toNat + k.toNat + w.toNat) % 2 ^ 32)

/-! ### The host register window -/

/-- R81: the read value of every register of the map but STATUS, STATUS being `StatusFields`. -/
def Obligations.RegisterMapReads : Prop :=
  ∀ e : Engine,
    readWindow e 0x000#13 = 0x53323536#32 ∧
    readWindow e 0x008#13 = 0#32 ∧
    readWindow e 0x00C#13 = e.din ∧
    (readWindow e 0x010#13).toNat = e.reck.toNat ∧
    (readWindow e 0x014#13).toNat = e.reccnt.toNat ∧
    (readWindow e 0x018#13).toNat = e.fill.toNat ∧
    (readWindow e 0x01C#13).toNat = e.t.toNat ∧
    (readWindow e 0x024#13 ++ readWindow e 0x020#13 : BitVec 64) = e.L ∧
    (readWindow e 0x02C#13 ++ readWindow e 0x028#13 : BitVec 64) = e.blkcnt ∧
    (readWindow e 0x034#13 ++ readWindow e 0x030#13 : BitVec 64) = e.lbits ∧
    readWindow e 0x038#13 = e.errcmd ∧
    readWindow e 0x080#13 = e.t1r ∧
    readWindow e 0x084#13 = e.t2r ∧
    (∀ (i : Nat) (h : i < 8), readWindow e (BitVec.ofNat 13 (0x040 + 4 * i)) = e.H[i]) ∧
    (∀ (i : Nat) (h : i < 8), readWindow e (BitVec.ofNat 13 (0x060 + 4 * i)) = e.V[i]) ∧
    (∀ (i : Nat) (h : i < 8), readWindow e (BitVec.ofNat 13 (0x0C0 + 4 * i)) = Rom.iv[i]) ∧
    (∀ (i : Nat) (h : i < 16), readWindow e (BitVec.ofNat 13 (0x100 + 4 * i)) =
      (e.blk[4 * i] ++ e.blk[4 * i + 1] ++ e.blk[4 * i + 2] ++ e.blk[4 * i + 3] : BitVec 32)) ∧
    (∀ (t : Nat) (h : t < 64), readWindow e (BitVec.ofNat 13 (0x200 + 4 * t)) = e.W[t]) ∧
    (∀ (t : Nat) (h : t < 64), readWindow e (BitVec.ofNat 13 (0x300 + 4 * t)) = Rom.k[t])

/-- R82: the REC window, entry by entry and word by word. -/
def Obligations.RecordWindowReads : Prop :=
  ∀ (e : Engine) (j : Nat) (h : j < 64),
    readWindow e (BitVec.ofNat 13 (0x1000 + 64 * j)) = e.records[j].rt ∧
    readWindow e (BitVec.ofNat 13 (0x1000 + 64 * j + 4)) = e.records[j].rw ∧
    readWindow e (BitVec.ofNat 13 (0x1000 + 64 * j + 8)) = e.records[j].rk ∧
    readWindow e (BitVec.ofNat 13 (0x1000 + 64 * j + 12)) = e.records[j].rt1 ∧
    readWindow e (BitVec.ofNat 13 (0x1000 + 64 * j + 16)) = e.records[j].rt2 ∧
    (∀ (f : Nat) (hf : f < 8),
      readWindow e (BitVec.ofNat 13 (0x1000 + 64 * j + 4 * (5 + f))) = e.records[j].vars[f]) ∧
    (∀ f : Nat, 13 ≤ f → f ≤ 15 →
      readWindow e (BitVec.ofNat 13 (0x1000 + 64 * j + 4 * f)) = 0#32)

/-- R53: the fields of STATUS, and its reserved bits. PHASE, PADST and ERRCODE read as the codes of
R31, R34 and R51 (R260), written out. -/
def Obligations.StatusFields : Prop :=
  (∀ e : Engine,
    readWindow e 0x004#13 = e.status ∧
    e.status.extractLsb' 0 4 = (match e.phase with
      | .ready => 0#4 | .slice => 1#4 | .sched => 2#4 | .round => 3#4 | .final => 4#4
      | .pad => 5#4 | .held => 6#4 | .done => 7#4 | .error => 8#4) ∧
    (e.status.getLsbD 4 = true ↔
      e.phase = .slice ∨ e.phase = .sched ∨ e.phase = .round ∨ e.phase = .final ∨
        e.phase = .pad) ∧
    (e.status.getLsbD 5 = true ↔ e.phase = .done) ∧
    e.status.getLsbD 6 = e.hold ∧
    e.status.getLsbD 7 = e.first ∧
    e.status.extractLsb' 8 4 = (match e.errcode with
      | .none => 0#4 | .inputTooLarge => 1#4 | .invariantViolation => 2#4
      | .illegalCommand => 3#4 | .protocolError => 4#4) ∧
    e.status.extractLsb' 12 4 = 0#4 ∧
    e.status.extractLsb' 16 4 = (match e.padst with
      | .none => 0#4 | .mark => 1#4 | .zero => 2#4 | .len1 => 3#4 | .len2 => 4#4 | .len3 => 5#4
      | .len4 => 6#4 | .len5 => 7#4 | .len6 => 8#4 | .len7 => 9#4 | .last => 10#4) ∧
    e.status.extractLsb' 20 12 = 0#12) ∧
  State.reset.eng.status = 0x00000080#32

/-- R83: a reserved offset reads 0 and a write to it has no effect on the engine. The host's own fields
are the model's (assumption log 2). -/
def Obligations.ReservedOffsetsReadZero : Prop :=
  ∀ (off : BitVec 13), off.toNat % 4 = 0 →
    (off = 0x03C#13 ∨ (0x088 ≤ off.toNat ∧ off.toNat ≤ 0x0BC) ∨
      (0x0E0 ≤ off.toNat ∧ off.toNat ≤ 0x0FC) ∨ (0x140 ≤ off.toNat ∧ off.toNat ≤ 0x1FC) ∨
      (0x400 ≤ off.toNat ∧ off.toNat ≤ 0xFFC) ∨
      (0x1000 ≤ off.toNat ∧ 52 ≤ off.toNat % 64)) →
    (∀ e : Engine, readWindow e off = 0#32) ∧
    (∀ (s : State) (v : Word) (rest : List HostOp), HostMoves s →
      s.program = .write off 4 v :: rest → step s = .next (afterAccess s rest .done))

/-- R9, R88: on the host's move a read answers the register's value in that state and leaves the
engine as it is. The host's own fields are the model's (assumption log 2). -/
def Obligations.ReadsHaveNoSideEffect : Prop :=
  ∀ (s : State) (off : BitVec 13) (rest : List HostOp), HostMoves s →
    s.program = .read off 4 :: rest → off.toNat % 4 = 0 →
    step s = .next (afterAccess s rest (.data (readWindow s.eng off)))

/-- R84: a write to any offset but CMD and DIN completes and changes nothing of the engine. The host's
own fields are the model's (assumption log 2). -/
def Obligations.OtherWritesAreIgnored : Prop :=
  ∀ (s : State) (off : BitVec 13) (v : Word) (rest : List HostOp), HostMoves s →
    s.program = .write off 4 v :: rest → off.toNat % 4 = 0 →
    off ≠ 0x008#13 → off ≠ 0x00C#13 →
    step s = .next (afterAccess s rest .done)

/-- R52, R300: a host write to 0x00C sets DIN, busy or idle, and a read returns it; no command and no
micro-step writes it. A step leaves DIN as it is unless it is the reset, which sets it to 0, or the
host's write to 0x00C. The host's own fields are the model's (assumption log 2). -/
def Obligations.DinIsWrittenByTheBusOnly : Prop :=
  (∀ (s : State) (v : Word) (rest : List HostOp), HostMoves s →
    s.program = .write 0x00C#13 4 v :: rest →
    step s = .next { afterAccess s rest .done with eng := { s.eng with din := v } }) ∧
  (∀ e : Engine, readWindow e 0x00C#13 = e.din) ∧
  (∀ (i : Instr) (s s' : State), exec i s = .next s' → s'.eng.din = s.eng.din) ∧
  (∀ e e' : Engine, microStep e = .ok e' → e'.din = e.din) ∧
  (∀ s s' : State, step s = .next s' →
    s'.eng.din = s.eng.din ∨ (s.turn = .reset ∧ s'.eng.din = 0#32) ∨
    (s.turn ≠ .reset ∧ ∃ v rest, s.program = .write 0x00C#13 4 v :: rest ∧ s'.eng.din = v))

/-- R86: an access of another width, or at an offset that is no multiple of 4, gets a bus error, and
no state of the engine changes. That the host then goes on is the model's choice (assumption log 4). -/
def Obligations.BusErrorsHaveNoEffect : Prop :=
  ∀ (s : State) (off : BitVec 13) (bytes : Nat) (v : Word) (rest : List HostOp), HostMoves s →
    (s.program = .read off bytes :: rest ∨ s.program = .write off bytes v :: rest) →
    (bytes ≠ 4 ∨ off.toNat % 4 ≠ 0) →
    step s = .next (afterAccess s rest .busError)

/-- R92: while PHASE is busy a CMD write is not accepted: a step that is no reset leaves it, and all
behind it, in front of the port, and changes the engine by a micro-step at most. When PHASE is idle
it is accepted. Presenting a held write is a step of its own, the model's choice (log 8). -/
def Obligations.CommandPortHoldsWhileBusy : Prop :=
  (∀ (s s' : State) (c : Word) (rest : List HostOp), s.turn ≠ .reset →
    s.program = .write 0x008#13 4 c :: rest → s.eng.phase.busy = true → step s = .next s' →
    s'.program = s.program ∧ s'.responses = s.responses ∧
    (s'.eng = s.eng ∧ s.held = false ∧ s'.held = true ∨ microStep s.eng = .ok s'.eng)) ∧
  (∀ (s : State) (c : Word) (rest : List HostOp), s.turn ≠ .reset →
    s.program = .write 0x008#13 4 c :: rest → Idle s →
    step s = acceptWord c (afterAccess s rest .done))

/-- R31, R285: in an idle phase no micro-step happens. Unless the step is a reset or the host's next
operation writes CMD or DIN, the engine keeps all its state. -/
def Obligations.IdleEngineKeepsItsState : Prop :=
  ∀ s : State, Idle s → s.turn ≠ .reset →
    (∀ c rest, s.program ≠ .write 0x008#13 4 c :: rest) →
    (∀ v rest, s.program ≠ .write 0x00C#13 4 v :: rest) →
    ∃ s', step s = .next s' ∧ s'.eng = s.eng

/-! ### Steps -/

/-- A step runs the decoded command: when the host's CMD write of `c` is at the port, the engine is
idle and `c` decodes to `i`, the step is `exec i` on the state in which the write has completed
(R92, R165, R167). How a program comes to run is the model's choice (assumption log 1, 2). -/
def Obligations.StepRunsTheDecodedCommand : Prop :=
  ∀ (s : State) (c : Word) (rest : List HostOp) (i : Instr), s.turn ≠ .reset → Idle s →
    s.program = .write cmdOffset 4 c :: rest → decode c = .command i →
    step s = exec i (afterAccess s rest .done)

/-- The engine's move: a busy engine takes exactly the micro-step of its phase, and the host's side
does not change (R31, R91, R92). It moves on its own turn, and on the host's when the host has no
operation or stands held at the command port; the turns are the model's (assumption log 2, 10). -/
def Obligations.StepTakesTheMicroStep : Prop :=
  ∀ (s : State) (e : Engine), s.eng.phase.busy = true →
    (s.turn = .engine ∨ (s.turn = .host ∧ (s.held = true ∨ s.program = []))) →
    microStep s.eng = .ok e →
    step s = .next { s with eng := e, turns := s.turns.tail }

/-- R300, R301: the reset, in any phase, leaves every element at its reset value, which is what
INIT 8 leaves with DIN = 0, and abandons a held command write. That the rest of the host's program
stays, and that the abandoned write gets no response, is the model's choice (assumption log 7). -/
def Obligations.ResetFromAnyPhase : Prop :=
  (∀ s : State, s.turn = .reset →
    step s = .next { s with
      eng := initialised 8#7 false 0#32
      program := if s.held then s.program.tail else s.program
      held := false
      turns := s.turns.tail }) ∧
  State.reset.eng = initialised 8#7 false 0#32 ∧
  (∀ s s' : State, Idle s → exec (.init 8#8 false) s = .next s' →
    { s'.eng with din := 0#32 } = State.reset.eng) ∧
  State.reset.eng.status = 0x00000080#32

/-! ### Invariants -/

/-- The invariant holds right after reset. -/
def Obligations.ResetMeetsTheInvariant : Prop := Inv State.reset

/-- R56: every step, whoever moves, keeps the invariant. -/
def Obligations.EveryStepKeepsTheInvariant : Prop :=
  ∀ s s' : State, Inv s → step s = .next s' → Inv s'

/-- R98, R261: from a state of the invariant no step ever stops by a `Fault` of the model (assumption
log 5, 6), so every run of any length is safe. -/
def Obligations.InvariantRunsNeverStop : Prop :=
  ∀ (s : State) (n : Nat), Inv s → SafeRun n s

/-- R241: the digest cannot change while PHASE stays DONE, and a step leaves DONE only by reset, by
an accepted INIT or by an error; no micro-step runs. -/
def Obligations.DigestStaysWhileDone : Prop :=
  ∀ s s' : State, s.eng.phase = .done → s.turn ≠ .reset → step s = .next s' →
    (s'.eng.H = s.eng.H ∧ (s'.eng.phase = .done ∨ s'.eng.phase = .error)) ∨ InitAccepted s

/-- R48, R50, R281: L grows by one with an ABSORB accepted in READY and BLKCNT by one with FINAL;
INIT and reset set both to 0; nothing else changes them. -/
def Obligations.CountersChangeOnlyAsStated : Prop :=
  ∀ s s' : State, step s = .next s' →
    (s'.eng.L = 0#64 ∧ s'.eng.blkcnt = 0#64 ∧ (s.turn = .reset ∨ InitAccepted s)) ∨
    ((s'.eng.L = s.eng.L ∨
      (s'.eng.L = s.eng.L + 1#64 ∧ s.eng.phase = .ready ∧
        ∃ c b rest, s.program = .write cmdOffset 4 c :: rest ∧
          decode c = .command (.absorb b))) ∧
     (s'.eng.blkcnt = s.eng.blkcnt ∨
      (s'.eng.blkcnt = s.eng.blkcnt + 1#64 ∧ s.eng.phase = .final)))

/-- R315, R46: REC changes only in ROUND while FIRST = 1, or by INIT or reset; and only INIT and
reset set FIRST. -/
def Obligations.RecordingHappensForTheFirstBlockOnly : Prop :=
  ∀ s s' : State, step s = .next s' →
    s.turn = .reset ∨ InitAccepted s ∨
    ((s'.eng.records ≠ s.eng.records → s.eng.phase = .round ∧ s.eng.first = true) ∧
     (s'.eng.first = true → s.eng.first = true) ∧ s'.eng.reck = s.eng.reck ∧
     s'.eng.hold = s.eng.hold)

/-- R222: no value any other rule reads depends on the recorder. Two engines that differ in RECK,
RECCNT and REC at most take micro-steps and commands to engines that differ in them at most. -/
def Obligations.RecorderDoesNotDisturbTheEngine : Prop :=
  (∀ e₁ e₂ e₁' : Engine, SameButRecorder e₁ e₂ → microStep e₁ = .ok e₁' →
    ∃ e₂', microStep e₂ = .ok e₂' ∧ SameButRecorder e₁' e₂') ∧
  (∀ (i : Instr) (s₁ s₂ s₁' : State), SameButRecorder s₁.eng s₂.eng → exec i s₁ = .next s₁' →
    ∃ s₂', exec i s₂ = .next s₂' ∧ SameButRecorder s₁'.eng s₂'.eng)

/-! ### Whole blocks and whole messages -/

/-- R225, R226, R227: from SLICE the engine takes 114 micro-steps, busy before each of them. At the
end W is the block's schedule, a function of BLK alone; H is `compress(Hin, B)`; V keeps the working
variables of the last round; the phase is the one FINAL chooses. -/
def Obligations.BlockComputesTheCompressionFunction : Prop :=
  ∀ e : Engine, e.phase = .slice →
    (∀ n, n < 114 → ∃ e', microSteps n e = .ok e' ∧ e'.phase.busy = true) ∧
    ∃ e', microSteps 114 e = .ok e' ∧
      e'.W = Reference.schedule e.blk ∧
      e'.V = Reference.varsAfter (Reference.schedule e.blk) e.H 64 ∧
      e'.H = Reference.compress e.H e.blk ∧
      e'.blk = e.blk ∧ e'.blkcnt = e.blkcnt + 1#64 ∧ e'.first = false ∧
      e'.L = e.L ∧ e'.lbits = e.lbits ∧ e'.padst = e.padst ∧ e'.hold = e.hold ∧
      e'.din = e.din ∧ e'.fill = 0#7 ∧ e'.t = 0#7 ∧ e'.phase = phaseAfterBlock e.padst e.hold

/-- R222, R225: the records of a block. With FIRST = 1 the first RECK rounds are recorded, in round
order, with the index, the schedule word, the constant, T1, T2 and the working variables after the
round, and RECCNT counts them; the other entries keep what they held. With FIRST = 0 nothing is
recorded. -/
def Obligations.BlockRecordsItsLeadingRounds : Prop :=
  ∀ e : Engine, e.phase = .slice →
    ∃ e', microSteps 114 e = .ok e' ∧
      (e.first = true → e.reck.toNat ≤ 64 →
        (e.reck ≠ 0#7 → e'.reccnt = e.reck) ∧
        ∀ (j : Nat) (h : j < 64),
          (j < e.reck.toNat →
            e'.records[j] =
              ⟨BitVec.ofNat 32 j, (Reference.schedule e.blk)[j], Rom.k[j],
                roundT1 (Reference.varsAfter (Reference.schedule e.blk) e.H j) Rom.k[j]
                  (Reference.schedule e.blk)[j],
                roundT2 (Reference.varsAfter (Reference.schedule e.blk) e.H j),
                Reference.varsAfter (Reference.schedule e.blk) e.H (j + 1)⟩) ∧
          (e.reck.toNat ≤ j → e'.records[j] = e.records[j])) ∧
      (e.first = false → e'.records = e.records ∧ e'.reccnt = e.reccnt)

/-- R200, R202, R206: the padding in the block buffer. After an accepted FINISH in READY the PAD steps
fill the buffer behind the absorbed bytes `tail` of the current block with the padding of the whole
message, and then the engine enters SLICE: in one block when the length field still fits, and in a
first block of 64 bytes otherwise. -/
def Obligations.FinishPadsTheCurrentBlock : Prop :=
  ∀ (s s' : State) (tail : List Byte), Inv s → s.eng.phase = .ready →
    tail.length = s.eng.fill.toNat →
    (∀ (i : Nat) (h : i < 64), i < tail.length → tail[i]? = some s.eng.blk[i]) →
    exec .finish s = .next s' →
    ∃ e, microSteps (64 - tail.length) s'.eng = .ok e ∧ e.phase = .slice ∧ e.fill = 64#7 ∧
      e.blk = Reference.firstBlock (tail ++ Reference.padding s.eng.L.toNat) ∧
      (e.padst = .last ↔ s.eng.L.toNat % 64 ≤ 55) ∧ e.L = s.eng.L

/-- R227, R312: after an accepted FINISH with HOLD = 0 the engine is busy for exactly
9 + z + 114 n micro-steps, n = 1 or 2 by L mod 64, and then DONE; that is at most 300. -/
def Obligations.FinishReachesDoneInTheStatedSteps : Prop :=
  ∀ s s' : State, Inv s → s.eng.phase = .ready → s.eng.hold = false →
    exec .finish s = .next s' →
    9 + Reference.zeroCount s.eng.L.toNat + 114 * Reference.finishBlocks s.eng.L.toNat ≤ 300 ∧
    (∀ n, n < 9 + Reference.zeroCount s.eng.L.toNat +
        114 * Reference.finishBlocks s.eng.L.toNat →
      ∃ e, microSteps n s'.eng = .ok e ∧ e.phase.busy = true) ∧
    ∃ e, microSteps (9 + Reference.zeroCount s.eng.L.toNat +
        114 * Reference.finishBlocks s.eng.L.toNat) s'.eng = .ok e ∧ e.phase = .done ∧
      e.blkcnt = s.eng.blkcnt + BitVec.ofNat 64 (Reference.finishBlocks s.eng.L.toNat)

/-- R312: every busy engine of the invariant reaches an idle phase within 300 micro-steps, so no
command write is held for ever. -/
def Obligations.BusyPhasesEndWithin300MicroSteps : Prop :=
  ∀ e : Engine, EngineInv e →
    ∃ n e', n ≤ 300 ∧ microSteps n e = .ok e' ∧ e'.phase.busy = false

/-- R92, R312: a CMD write at the port is accepted within 302 steps, whatever the phase and the
schedule, when no reset comes: 300 micro-steps, one step to present it and one to accept it. The
count of steps is the model's (assumption log 8); the bound of 300 micro-steps is R312's. -/
def Obligations.HeldWriteIsAccepted : Prop :=
  ∀ (s : State) (c : Word) (rest : List HostOp), Inv s → NoReset s.turns →
    s.program = .write cmdOffset 4 c :: rest →
    ∃ n s', n ≤ 302 ∧ Host.Core.run Sys2Proof.core n s = .next s' ∧ s'.program = rest ∧
      s'.responses = s.responses ++ [.done] ∧ s'.held = false

/-- R203, R204, R205: the padding of a message of `len` bytes has 9 + z bytes with z = (55 - len)
mod 64; the padded message fills N = floor((len + 8) / 64) + 1 blocks exactly; 8 * 64 * N is the
smallest multiple of 512 above 8 len + 64; and FINISH's share of the blocks is 1 or 2. -/
def Obligations.PaddedLengthIsTheLeastThatFits : Prop :=
  ∀ len : Nat,
    ((Reference.zeroCount len : Int) = (55 - (len : Int)) % 64) ∧
    (Reference.padding len).length = 9 + Reference.zeroCount len ∧
    len + (Reference.padding len).length = 64 * Reference.blockCount len ∧
    8 * len + 64 < 512 * Reference.blockCount len ∧
    (∀ m : Nat, 8 * len + 64 < 512 * m → Reference.blockCount len ≤ m) ∧
    Reference.blockCount len = len / 64 + Reference.finishBlocks len

/-- R206, R244: the digest. From any state of the invariant whose host program is INIT, one ABSORB a
byte and FINISH, with HOLD = 0 and any schedule without a reset, the machine reaches DONE, with the
digest of the message in H, its length in L, 8 L in LBITS and its block count in BLKCNT. The message
is any list of fewer than 2^61 bytes and KREQ is any value. -/
def Obligations.MachineComputesTheDigest : Prop :=
  ∀ (s : State) (kreq : BitVec 8) (msg : List Byte), Inv s → NoReset s.turns →
    msg.length < 2 ^ 61 → s.program = hashOps kreq false msg →
    ∃ n s', Host.Core.run Sys2Proof.core n s = .next s' ∧
      s'.eng.phase = .done ∧ s'.program = [] ∧
      s'.eng.H = Reference.digest msg ∧
      s'.eng.L = BitVec.ofNat 64 msg.length ∧
      s'.eng.lbits = BitVec.ofNat 64 (8 * msg.length) ∧
      s'.eng.blkcnt = BitVec.ofNat 64 (Reference.blockCount msg.length)

/-- R244, R222, R224: the same digest with HOLD = 1, when the host writes a RESUME at every HELD. -/
def Obligations.HoldingHostGetsTheSameDigest : Prop :=
  ∀ (s : State) (kreq : BitVec 8) (msg : List Byte), Inv s → NoReset s.turns →
    msg.length < 2 ^ 61 → s.program = hashHeldOps kreq msg →
    ∃ n s', Host.Core.run Sys2Proof.core n s = .next s' ∧
      s'.eng.phase = .done ∧ s'.program = [] ∧
      s'.eng.H = Reference.digest msg ∧
      s'.eng.blkcnt = BitVec.ofNat 64 (Reference.blockCount msg.length)

/-- R240, R241: in an idle phase `readdigest` answers H[0..7] in order, in eight steps. -/
def Obligations.ReadDigestAnswersTheHashWords : Prop :=
  ∀ (s : State) (rest : List HostOp), Idle s → NoReset s.turns →
    s.program = readDigestOps ++ rest →
    ∃ s', Host.Core.run Sys2Proof.core 8 s = .next s' ∧ s'.eng = s.eng ∧ s'.program = rest ∧
      s'.responses = s.responses ++ s.eng.H.toList.map BusResponse.data

/-- R128, R181, R52: `loadblock` in READY with FILL = 0 leaves the sixteen words in the block buffer,
in 32 steps, and changes nothing of the engine but BLK and DIN. -/
def Obligations.LoadblockFillsTheBlockBuffer : Prop :=
  ∀ (s : State) (w : Vector Word 16), s.eng.phase = .ready → s.eng.fill = 0#7 →
    NoReset s.turns → s.program = (HostStmt.loadblock w).expand →
    ∃ s', Host.Core.run Sys2Proof.core 32 s = .next s' ∧
      s'.eng = { s.eng with blk := s'.eng.blk, din := w[15] } ∧
      ∀ i : Fin 16, readWindow s'.eng (BitVec.ofNat 13 (0x100 + 4 * i.val)) = w[i]

/-! ### The constant ROMs -/

/-- R40, R41: K[t] is the first 32 bits of the fractional part of the cube root of the prime number t
(from 0), and IV[i] those of the square root of the prime number i: with n the root scaled by 2^32 and
rounded down, the constant is n modulo 2^32. The spec takes both from general knowledge. -/
def Obligations.ConstantsAreTheRootFractions : Prop :=
  (∀ (t : Nat) (h : t < 64), ∃ n : Nat,
    n ^ 3 ≤ Nat.nth Nat.Prime t * 2 ^ 96 ∧ Nat.nth Nat.Prime t * 2 ^ 96 < (n + 1) ^ 3 ∧
      Rom.k[t].toNat = n % 2 ^ 32) ∧
  (∀ (i : Nat) (h : i < 8), ∃ n : Nat,
    n ^ 2 ≤ Nat.nth Nat.Prime i * 2 ^ 64 ∧ Nat.nth Nat.Prime i * 2 ^ 64 < (n + 1) ^ 2 ∧
      Rom.iv[i].toNat = n % 2 ^ 32)
end

