-- ==== Sys2Proof/Laws/State.lean ====
section
/-!
SUPPORT. One lemma per field per update of the state, and the codes of the enumerations.
-/

namespace Sys2Proof.Machine

/-! ### Error entry -/

@[simp] theorem State.raiseError_phase (s : State) (code : ErrCode) (c : Word) :
    (s.raiseError code c).eng.phase = .error := rfl
@[simp] theorem State.raiseError_errcode (s : State) (code : ErrCode) (c : Word) :
    (s.raiseError code c).eng.errcode = code := rfl
@[simp] theorem State.raiseError_errcmd (s : State) (code : ErrCode) (c : Word) :
    (s.raiseError code c).eng.errcmd = c := rfl
@[simp] theorem State.raiseError_t (s : State) (code : ErrCode) (c : Word) :
    (s.raiseError code c).eng.t = s.eng.t := rfl
@[simp] theorem State.raiseError_fill (s : State) (code : ErrCode) (c : Word) :
    (s.raiseError code c).eng.fill = s.eng.fill := rfl
@[simp] theorem State.raiseError_padst (s : State) (code : ErrCode) (c : Word) :
    (s.raiseError code c).eng.padst = s.eng.padst := rfl
@[simp] theorem State.raiseError_H (s : State) (code : ErrCode) (c : Word) :
    (s.raiseError code c).eng.H = s.eng.H := rfl
@[simp] theorem State.raiseError_V (s : State) (code : ErrCode) (c : Word) :
    (s.raiseError code c).eng.V = s.eng.V := rfl
@[simp] theorem State.raiseError_t1r (s : State) (code : ErrCode) (c : Word) :
    (s.raiseError code c).eng.t1r = s.eng.t1r := rfl
@[simp] theorem State.raiseError_t2r (s : State) (code : ErrCode) (c : Word) :
    (s.raiseError code c).eng.t2r = s.eng.t2r := rfl
@[simp] theorem State.raiseError_W (s : State) (code : ErrCode) (c : Word) :
    (s.raiseError code c).eng.W = s.eng.W := rfl
@[simp] theorem State.raiseError_blk (s : State) (code : ErrCode) (c : Word) :
    (s.raiseError code c).eng.blk = s.eng.blk := rfl
@[simp] theorem State.raiseError_records (s : State) (code : ErrCode) (c : Word) :
    (s.raiseError code c).eng.records = s.eng.records := rfl
@[simp] theorem State.raiseError_reck (s : State) (code : ErrCode) (c : Word) :
    (s.raiseError code c).eng.reck = s.eng.reck := rfl
@[simp] theorem State.raiseError_reccnt (s : State) (code : ErrCode) (c : Word) :
    (s.raiseError code c).eng.reccnt = s.eng.reccnt := rfl
@[simp] theorem State.raiseError_hold (s : State) (code : ErrCode) (c : Word) :
    (s.raiseError code c).eng.hold = s.eng.hold := rfl
@[simp] theorem State.raiseError_first (s : State) (code : ErrCode) (c : Word) :
    (s.raiseError code c).eng.first = s.eng.first := rfl
@[simp] theorem State.raiseError_L (s : State) (code : ErrCode) (c : Word) :
    (s.raiseError code c).eng.L = s.eng.L := rfl
@[simp] theorem State.raiseError_lbits (s : State) (code : ErrCode) (c : Word) :
    (s.raiseError code c).eng.lbits = s.eng.lbits := rfl
@[simp] theorem State.raiseError_blkcnt (s : State) (code : ErrCode) (c : Word) :
    (s.raiseError code c).eng.blkcnt = s.eng.blkcnt := rfl
@[simp] theorem State.raiseError_din (s : State) (code : ErrCode) (c : Word) :
    (s.raiseError code c).eng.din = s.eng.din := rfl
@[simp] theorem State.raiseError_program (s : State) (code : ErrCode) (c : Word) :
    (s.raiseError code c).program = s.program := rfl
@[simp] theorem State.raiseError_responses (s : State) (code : ErrCode) (c : Word) :
    (s.raiseError code c).responses = s.responses := rfl
@[simp] theorem State.raiseError_held (s : State) (code : ErrCode) (c : Word) :
    (s.raiseError code c).held = s.held := rfl
@[simp] theorem State.raiseError_turns (s : State) (code : ErrCode) (c : Word) :
    (s.raiseError code c).turns = s.turns := rfl

/-! ### INIT's body -/

@[simp] theorem Engine.initialise_phase (e : Engine) (k : BitVec 8) (h : Bool) :
    (e.initialise k h).phase = .ready := rfl
@[simp] theorem Engine.initialise_reck (e : Engine) (k : BitVec 8) (h : Bool) :
    (e.initialise k h).reck = clampRounds k := rfl
@[simp] theorem Engine.initialise_hold (e : Engine) (k : BitVec 8) (h : Bool) :
    (e.initialise k h).hold = h := rfl
@[simp] theorem Engine.initialise_first (e : Engine) (k : BitVec 8) (h : Bool) :
    (e.initialise k h).first = true := rfl
@[simp] theorem Engine.initialise_H (e : Engine) (k : BitVec 8) (h : Bool) :
    (e.initialise k h).H = Rom.iv := rfl
@[simp] theorem Engine.initialise_fill (e : Engine) (k : BitVec 8) (h : Bool) :
    (e.initialise k h).fill = 0#7 := rfl
@[simp] theorem Engine.initialise_t (e : Engine) (k : BitVec 8) (h : Bool) :
    (e.initialise k h).t = 0#7 := rfl
@[simp] theorem Engine.initialise_L (e : Engine) (k : BitVec 8) (h : Bool) :
    (e.initialise k h).L = 0#64 := rfl
@[simp] theorem Engine.initialise_lbits (e : Engine) (k : BitVec 8) (h : Bool) :
    (e.initialise k h).lbits = 0#64 := rfl
@[simp] theorem Engine.initialise_blkcnt (e : Engine) (k : BitVec 8) (h : Bool) :
    (e.initialise k h).blkcnt = 0#64 := rfl
@[simp] theorem Engine.initialise_padst (e : Engine) (k : BitVec 8) (h : Bool) :
    (e.initialise k h).padst = .none := rfl
@[simp] theorem Engine.initialise_reccnt (e : Engine) (k : BitVec 8) (h : Bool) :
    (e.initialise k h).reccnt = 0#7 := rfl
@[simp] theorem Engine.initialise_errcode (e : Engine) (k : BitVec 8) (h : Bool) :
    (e.initialise k h).errcode = .none := rfl
@[simp] theorem Engine.initialise_errcmd (e : Engine) (k : BitVec 8) (h : Bool) :
    (e.initialise k h).errcmd = 0#32 := rfl
@[simp] theorem Engine.initialise_din (e : Engine) (k : BitVec 8) (h : Bool) :
    (e.initialise k h).din = e.din := rfl

/-! ### The host's side of the bus -/

@[simp] theorem State.complete_eng (s : State) (r : BusResponse) : (s.complete r).eng = s.eng := rfl
@[simp] theorem State.complete_program (s : State) (r : BusResponse) :
    (s.complete r).program = s.program.tail := rfl
@[simp] theorem State.complete_responses (s : State) (r : BusResponse) :
    (s.complete r).responses = s.responses ++ [r] := rfl
@[simp] theorem State.complete_held (s : State) (r : BusResponse) :
    (s.complete r).held = false := rfl
@[simp] theorem State.complete_turns (s : State) (r : BusResponse) :
    (s.complete r).turns = s.turns := rfl

@[simp] theorem State.takeTurn_eng (s : State) : s.takeTurn.eng = s.eng := rfl
@[simp] theorem State.takeTurn_program (s : State) : s.takeTurn.program = s.program := rfl
@[simp] theorem State.takeTurn_responses (s : State) : s.takeTurn.responses = s.responses := rfl
@[simp] theorem State.takeTurn_held (s : State) : s.takeTurn.held = s.held := rfl
@[simp] theorem State.takeTurn_turns (s : State) : s.takeTurn.turns = s.turns.tail := rfl

@[simp] theorem platformReset_eng (s : State) : (platformReset s).eng = Engine.reset := rfl
@[simp] theorem platformReset_program (s : State) :
    (platformReset s).program = if s.held then s.program.tail else s.program := rfl
@[simp] theorem platformReset_responses (s : State) :
    (platformReset s).responses = s.responses := rfl
@[simp] theorem platformReset_held (s : State) : (platformReset s).held = false := rfl
@[simp] theorem platformReset_turns (s : State) : (platformReset s).turns = s.turns := rfl

@[simp] theorem State.issueNext_eng (s : State) (c : Word) : (s.issueNext c).eng = s.eng := rfl
@[simp] theorem State.issueNext_program (s : State) (c : Word) :
    (s.issueNext c).program = .write cmdOffset 4 c :: s.program := rfl
@[simp] theorem State.issueNext_turn (s : State) (c : Word) : (s.issueNext c).turn = .host := rfl

/-! ### Phases -/

theorem Phase.busy_iff (p : Phase) :
    p.busy = true ↔ p = .slice ∨ p = .sched ∨ p = .round ∨ p = .final ∨ p = .pad := by
  cases p <;> decide

theorem Phase.idle_iff (p : Phase) :
    p.busy = false ↔ p = .ready ∨ p = .held ∨ p = .done ∨ p = .error := by
  cases p <;> decide

end Sys2Proof.Machine
end

