-- ==== Sys2Proof/Laws/Ops.lean ====
section
/-!
SUPPORT. What each shared operation can do, said once: acceptance, the next byte of a block, the
host's accesses and the choice of the agent.
-/

namespace Sys2Proof.Machine

/-! ### Acceptance (R165, R166, R169) -/

theorem acceptCommand_legal {i : Instr} {body : State → Host.Outcome State Fault Refusal}
    {s : State} (hb : s.eng.phase.busy = false) (hl : legalIn i s.eng.phase = true) :
    acceptCommand i body s = body s := by
  simp [acceptCommand, hb, hl]

theorem acceptCommand_error {i : Instr} {body : State → Host.Outcome State Fault Refusal}
    {s : State} (he : s.eng.phase = .error) (hl : legalIn i .error = false) :
    acceptCommand i body s = .next s := by
  simp [acceptCommand, he, hl, Phase.busy]

theorem acceptCommand_protocol {i : Instr} {body : State → Host.Outcome State Fault Refusal}
    {s : State} (hb : s.eng.phase.busy = false) (hl : legalIn i s.eng.phase = false)
    (he : s.eng.phase ≠ .error) :
    acceptCommand i body s = .next (s.raiseError .protocolError (encode i)) := by
  simp [acceptCommand, hb, hl, he]

theorem acceptCommand_busy {i : Instr} {body : State → Host.Outcome State Fault Refusal}
    {s : State} (hb : s.eng.phase.busy = true) :
    acceptCommand i body s = .fault .commandHeld := by
  simp [acceptCommand, hb]

/-- Everything acceptance can answer with a next state. -/
theorem acceptCommand_cases {i : Instr} {body : State → Host.Outcome State Fault Refusal}
    {s s' : State} (h : acceptCommand i body s = .next s') :
    s.eng.phase.busy = false ∧
    ((legalIn i s.eng.phase = true ∧ body s = .next s') ∨
     (legalIn i s.eng.phase = false ∧ s.eng.phase = .error ∧ s' = s) ∨
     (legalIn i s.eng.phase = false ∧ s.eng.phase ≠ .error ∧
      s' = s.raiseError .protocolError (encode i))) := by
  unfold acceptCommand at h
  split at h
  · cases h
  · rename_i hb
    refine ⟨by simpa using hb, ?_⟩
    split at h
    · exact .inl ⟨‹_›, h⟩
    · rename_i hl
      split at h
      · rename_i he
        cases h
        exact .inr (.inl ⟨by simpa using hl, by simpa using he, rfl⟩)
      · rename_i he
        cases h
        exact .inr (.inr ⟨by simpa using hl, by simpa using he, rfl⟩)

/-! ### The next byte of a block (R172, R200) -/

theorem Engine.appendByte_of_lt {e : Engine} (h : e.fill.toNat < 64) (b : Byte) :
    e.appendByte b = some { e with
      blk := e.blk.set e.fill.toNat b h
      fill := e.fill + 1#7
      phase := if e.fill + 1#7 = 64#7 then .slice else e.phase } := by
  simp [Engine.appendByte, h]

theorem Engine.appendByte_none_iff {e : Engine} {b : Byte} :
    e.appendByte b = none ↔ 64 ≤ e.fill.toNat := by
  unfold Engine.appendByte
  split <;> simp <;> omega

/-- FILL fills the block exactly from 63. -/
theorem fill_succ_eq_iff (f : BitVec 7) : f + 1#7 = 64#7 ↔ f.toNat = 63 := by
  constructor
  · intro h; bv_omega
  · intro h; bv_omega

/-! ### Who moves (R91, R92, R300) -/

/-- Everything a step can be: a reset, the engine's micro-step, or the host's move. -/
theorem nextMove_cases (s : State) :
    (s.turn = .reset ∧ nextMove s = .next (platformReset s.takeTurn)) ∨
    (s.turn ≠ .reset ∧ s.eng.phase.busy = true ∧ nextMove s = engineTurn s.takeTurn) ∨
    (s.turn ≠ .reset ∧ s.eng.phase.busy = false ∧ nextMove s = hostTurn s.takeTurn) ∨
    (s.turn = .host ∧ s.eng.phase.busy = true ∧ s.hostFree = true ∧
      nextMove s = hostTurn s.takeTurn) := by
  unfold nextMove
  cases ht : s.turn <;> cases hb : s.eng.phase.busy <;> cases hf : s.hostFree <;> simp

theorem engineTurn_ok {s : State} {e : Engine} (h : microStep s.eng = .ok e) :
    engineTurn s = .next { s with eng := e } := by
  simp [engineTurn, h]

/-- What the engine's move answers with a next state. -/
theorem engineTurn_next {s s' : State} (h : engineTurn s = .next s') :
    ∃ e, microStep s.eng = .ok e ∧ s' = { s with eng := e } := by
  unfold engineTurn at h
  split at h
  · rename_i e he
    cases h
    exact ⟨e, he, rfl⟩
  · cases h

/-- Everything the host's move can answer with a next state. -/
theorem hostTurn_cases {s s' : State} (h : hostTurn s = .next s') :
    (s'.eng = s.eng ∧ (s' = s ∨ (∃ r, s' = s.complete r) ∨
      (∃ rest r, s.program = .wait :: rest ∧ s' = { s with responses := s.responses ++ [r] }) ∨
      (∃ c rest, s.program = .write cmdOffset 4 c :: rest ∧ s.eng.phase.busy = true ∧
        s' = { s with held := true }))) ∨
    (∃ v rest, s.program = .write dinOffset 4 v :: rest ∧
      s' = { s.complete .done with eng := { s.eng with din := v } }) ∨
    (∃ c rest, s.program = .write cmdOffset 4 c :: rest ∧ s.eng.phase.busy = false ∧
      acceptWord c (s.complete .done) = .next s') := by
  unfold hostTurn at h
  split at h
  · cases h; exact .inl ⟨rfl, .inl rfl⟩
  · split at h <;> cases h <;> exact .inl ⟨rfl, .inr (.inl ⟨_, rfl⟩)⟩
  · rename_i off bytes v rest hp
    split at h
    · rename_i ha
      have hbytes : bytes = 4 := by
        simp [accessAllowed] at ha; exact ha.1
      subst hbytes
      unfold busWrite at h
      split at h
      · rename_i hc
        subst hc
        split at h
        · rename_i hb
          cases h
          exact .inl ⟨rfl, .inr (.inr (.inr ⟨v, rest, hp, hb, rfl⟩))⟩
        · rename_i hb
          exact .inr (.inr ⟨v, rest, hp, by simpa using hb, h⟩)
      · split at h
        · rename_i hd
          subst hd
          cases h
          exact .inr (.inl ⟨v, rest, hp, rfl⟩)
        · cases h; exact .inl ⟨rfl, .inr (.inl ⟨_, rfl⟩)⟩
    · cases h; exact .inl ⟨rfl, .inr (.inl ⟨_, rfl⟩)⟩
  · rename_i rest hp
    dsimp only at h
    split at h
    · cases h; exact .inl ⟨rfl, .inr (.inr (.inl ⟨rest, _, hp, rfl⟩))⟩
    · cases h; exact .inl ⟨rfl, .inr (.inl ⟨_, rfl⟩)⟩

end Sys2Proof.Machine
end

