-- ==== Sys2Proof/Laws/Commands.lean ====
section
/-!
SUPPORT. What every command leaves alone on the host's side of the bus, and acceptance of a raw word.
-/

namespace Sys2Proof.Machine

/-- No command touches the host's side of the bus: it is no state of the engine (spec/10_state.md R55). -/
theorem exec_host {i : Instr} {s s' : State} (h : exec i s = .next s') :
    s' = { s with eng := s'.eng } := by
  cases i <;> simp only [exec, execNop, execInit, execAbsorb, execFinish, execResume, execLoadh,
    execLoadm, execCompress] at h <;>
  obtain ⟨-, ⟨-, h⟩ | ⟨-, -, rfl⟩ | ⟨-, -, rfl⟩⟩ := acceptCommand_cases h <;>
  first
    | rfl
    | (cases h; rfl)
    | (split at h <;> first | (cases h; rfl) | (split at h <;> cases h <;> rfl))

theorem acceptWord_command {c : Word} {i : Instr} (h : decode c = .command i) (s : State) :
    acceptWord c s = exec i s := by
  simp [acceptWord, h]

/-- R124: an illegal word, outside ERROR. -/
theorem acceptWord_illegal {c : Word} {w : Reject} {s : State} (h : decode c = .illegal w)
    (hp : s.eng.phase ≠ .error) :
    acceptWord c s = .next (s.raiseError .illegalCommand c) := by
  simp [acceptWord, h, hp]

/-- R169: an illegal word, in ERROR. -/
theorem acceptWord_illegal_error {c : Word} {w : Reject} {s : State} (h : decode c = .illegal w)
    (hp : s.eng.phase = .error) : acceptWord c s = .next s := by
  simp [acceptWord, h, hp]

end Sys2Proof.Machine
end

