-- ==== Sys2Proof/Laws/Operands.lean ====
section
/-!
SUPPORT. The operand operations, said once: big-endian words, LOADM's store, SLICE's words, the clamp
of KREQ and the bit length.
-/

namespace Sys2Proof.Machine

/-- be32 as concatenation, most significant byte first (spec/00_scope.md R8). -/
theorem be32_eq_append (b0 b1 b2 b3 : Byte) : be32 b0 b1 b2 b3 = b0 ++ b1 ++ b2 ++ b3 := by
  apply BitVec.eq_of_getLsbD_eq
  intro i hi
  simp only [be32, BitVec.getLsbD_or, BitVec.getLsbD_shiftLeft, BitVec.getLsbD_setWidth,
    BitVec.getLsbD_append]
  interval_cases i <;> simp

/-- The bytes LOADM writes (R181). -/
theorem putBlockWord_of_eq (blk : Vector Byte 64) (i : Fin 16) (x : Word) (j : Nat) (hj : j < 64)
    (h : j / 4 = i.val) : (putBlockWord blk i x)[j] = byteOf x (j % 4) := by
  have hj4 : j = 4 * i.val + j % 4 := by omega
  have h4 : j % 4 < 4 := by omega
  simp only [putBlockWord, Vector.getElem_set]
  generalize j % 4 = q at *
  interval_cases q <;> split <;> first | rfl | omega | skip
  all_goals split <;> first | rfl | omega | skip
  all_goals split <;> first | rfl | omega | skip
  all_goals split <;> first | rfl | omega

/-- The bytes LOADM leaves (R181). -/
theorem putBlockWord_of_ne (blk : Vector Byte 64) (i : Fin 16) (x : Word) (j : Nat) (hj : j < 64)
    (h : j / 4 ≠ i.val) : (putBlockWord blk i x)[j] = blk[j] := by
  simp only [putBlockWord, Vector.getElem_set]
  rw [if_neg (by omega), if_neg (by omega), if_neg (by omega), if_neg (by omega)]

theorem clampRounds_toNat (kreq : BitVec 8) : (clampRounds kreq).toNat = min kreq.toNat 64 := by
  simp only [clampRounds, Config.maxRecords, BitVec.toNat_ofNat]
  omega

/-- The bit length never wraps for a length the engine admits (R48, R173). -/
theorem bitLength_toNat (len : Dword) (h : len.toNat ≤ 2 ^ 61 - 1) :
    (bitLength len).toNat = 8 * len.toNat := by
  simp only [bitLength, BitVec.toNat_mul, BitVec.toNat_ofNat]
  omega

end Sys2Proof.Machine
end

