-- ==== Sys2Proof/Laws/MicroSteps.lean ====
section
/-!
SUPPORT. The micro-steps, said once: which one PHASE selects, what SLICE and SCHED write into W, the
round as one equation, what no micro-step changes, and how runs of micro-steps compose.
-/

namespace Sys2Proof.Machine

/-! ### Which micro-step (R31) -/

theorem microStep_pad {e : Engine} (h : e.phase = .pad) : microStep e = padStep e := by
  simp [microStep, h]
theorem microStep_slice {e : Engine} (h : e.phase = .slice) : microStep e = sliceStep e := by
  simp [microStep, h]
theorem microStep_sched {e : Engine} (h : e.phase = .sched) : microStep e = schedStep e := by
  simp [microStep, h]
theorem microStep_round {e : Engine} (h : e.phase = .round) : microStep e = roundStep e := by
  simp [microStep, h]
theorem microStep_final {e : Engine} (h : e.phase = .final) : microStep e = finalStep e := by
  simp [microStep, h]
theorem microStep_idle {e : Engine} (h : e.phase.busy = false) :
    microStep e = .error .noMicroStep := by
  rcases (Phase.idle_iff _).1 h with h | h | h | h <;> simp [microStep, h]

/-! ### The schedule words (R201, R220) -/

theorem sliceWords_of_lt (blk : Vector Byte 64) (w : Vector Word 64) (i : Nat) (h : i < 16) :
    (sliceWords blk w)[i] = blockWord blk ⟨i, h⟩ := by
  simp [sliceWords, h]

theorem sliceWords_of_ge (blk : Vector Byte 64) (w : Vector Word 64) (i : Nat) (hi : i < 64)
    (h : 16 ≤ i) : (sliceWords blk w)[i] = w[i] := by
  simp [sliceWords, Nat.not_lt.2 h]

theorem setScheduleWord_self (w : Vector Word 64) (t : Nat) (h : 16 ≤ t ∧ t < 64) :
    (setScheduleWord w t h)[t] = scheduleWord w[t - 2] w[t - 7] w[t - 15] w[t - 16] := by
  simp [setScheduleWord]

theorem setScheduleWord_of_ne (w : Vector Word 64) (t : Nat) (h : 16 ≤ t ∧ t < 64) (i : Nat)
    (hi : i < 64) (hne : i ≠ t) : (setScheduleWord w t h)[i] = w[i] := by
  simp [setScheduleWord, Ne.symm hne]

/-! ### The round (R221, R222) -/

theorem roundStep_of_lt {e : Engine} (h : e.t.toNat < 64) : roundStep e = .ok { e with
    V := roundVars e.V (roundT1 e.V Rom.k[e.t.toNat] e.W[e.t.toNat]) (roundT2 e.V)
    t1r := roundT1 e.V Rom.k[e.t.toNat] e.W[e.t.toNat]
    t2r := roundT2 e.V
    records :=
      if e.t < e.kEff then
        e.records.set e.t.toNat (roundRecord e.t e.W[e.t.toNat] Rom.k[e.t.toNat]
          (roundT1 e.V Rom.k[e.t.toNat] e.W[e.t.toNat]) (roundT2 e.V)
          (roundVars e.V (roundT1 e.V Rom.k[e.t.toNat] e.W[e.t.toNat]) (roundT2 e.V))) h
      else e.records
    reccnt := if e.t < e.kEff then e.t + 1#7 else e.reccnt
    t := e.t + 1#7
    phase := if e.t = 63#7 then .final else e.phase } := by
  simp only [roundStep, dif_pos h, decide_eq_true_eq]

theorem kEff_of_first {e : Engine} (h : e.first = true) : e.kEff = e.reck := by
  simp [Engine.kEff, h]

theorem not_lt_kEff {e : Engine} (h : e.first = false) (t : BitVec 7) : ¬ t < e.kEff := by
  simp [Engine.kEff, h, BitVec.lt_def]

/-! ### The final addition (R224) -/

@[simp] theorem addWords_getElem (h v : Vector Word 8) (i : Nat) (hi : i < 8) :
    (addWords h v)[i] = h[i] + v[i] := by
  simp [addWords, add32]

/-! ### What no micro-step changes -/

/-- The elements of R30 that no rule of the micro-steps assigns. -/
theorem microStep_frame {e e' : Engine} (h : microStep e = .ok e') :
    e'.L = e.L ∧ e'.lbits = e.lbits ∧ e'.hold = e.hold ∧ e'.reck = e.reck := by
  unfold microStep at h
  split at h
  · unfold padStep at h
    split at h
    · cases h
    · split at h
      · rename_i he
        unfold Engine.appendByte at he
        split at he <;> cases he
        cases h
        exact ⟨rfl, rfl, rfl, rfl⟩
      · cases h
  · cases h; exact ⟨rfl, rfl, rfl, rfl⟩
  · unfold schedStep at h
    split at h
    · split at h <;> cases h <;> exact ⟨rfl, rfl, rfl, rfl⟩
    · cases h
  · unfold roundStep at h
    split at h <;> cases h
    exact ⟨rfl, rfl, rfl, rfl⟩
  · cases h; exact ⟨rfl, rfl, rfl, rfl⟩
  all_goals cases h

/-! ### Runs of micro-steps (R223, R227) -/

@[simp] theorem microSteps_zero (e : Engine) : microSteps 0 e = .ok e := rfl

theorem microSteps_add {m : Nat} (n : Nat) {e e₁ : Engine} (h : microSteps m e = .ok e₁) :
    microSteps (m + n) e = microSteps n e₁ := by
  induction m generalizing e with
  | zero => cases h; rw [Nat.zero_add]
  | succ m ih =>
    rw [Nat.succ_add]
    simp only [microSteps] at h ⊢
    cases hm : microStep e with
    | ok e' => rw [hm] at h; exact ih h
    | error f => rw [hm] at h; cases h

theorem microSteps_snoc {n : Nat} {e e₁ e₂ : Engine} (h : microSteps n e = .ok e₁)
    (h₁ : microStep e₁ = .ok e₂) : microSteps (n + 1) e = .ok e₂ := by
  rw [microSteps_add 1 h]
  simp [microSteps, h₁]

end Sys2Proof.Machine
end

