-- ==== Sys2Proof/Laws/PerInstr.lean ====
section
/-!
SUPPORT. Statements for all commands, one lemma per constructor of `Instr`.
-/

namespace Sys2Proof.Laws.EncodesWellFormed

/-- A command's word is well-formed (spec/30_encoding.md R123). -/
def Statement (i : Instr) : Prop := wellFormed (encode i) = true

theorem nop : Statement .nop := by unfold Statement; decide
theorem init (kreq : BitVec 8) (hld : Bool) : Statement (.init kreq hld) := by
  revert kreq hld; unfold Statement; decide
theorem absorb (byte : Byte) : Statement (.absorb byte) := by
  revert byte; unfold Statement; decide
theorem finish : Statement .finish := by unfold Statement; decide
theorem resume : Statement .resume := by unfold Statement; decide
theorem loadh (hidx : Fin 8) : Statement (.loadh hidx) := by
  revert hidx; unfold Statement; decide
theorem loadm (midx : Fin 16) : Statement (.loadm midx) := by
  revert midx; unfold Statement; decide
theorem compress : Statement .compress := by unfold Statement; decide

end Sys2Proof.Laws.EncodesWellFormed
end

