-- ==== Sys2Proof/Tests/Slice0.lean ====
section
/-!
SUPPORT. Small tests, each about one step, with their expected results from spec/95_test_vectors.md
or spec/30_encoding.md; the id of the vector is in the docstring. After them, for every obligation with
hypotheses, a witness `witness_<Name>` that meets them together, clause by clause.
-/

namespace Sys2Proof.Tests

open Sys2Proof Sys2Proof.Machine

/-- A part of the next state, when there is one. -/
def after {α : Type} (f : State → α) : Host.Outcome State Fault Refusal → Option α
  | .next s => some (f s)
  | .fault _ => none
  | .refused _ => none

/-- A part of the engine after a micro-step, when it goes through. -/
def afterMicro {α : Type} (f : Engine → α) : Except Fault Engine → Option α
  | .ok e => some (f e)
  | .error _ => none

/-- The state with the engine `e` and nothing for the host to do. -/
def withEngine (e : Engine) : State := { State.reset with eng := e }

/-- After `absorb 0x61` from reset, the fields the tests use. -/
def oneByte : State :=
  withEngine { Engine.reset with
    blk := (Vector.replicate 64 0#8).set 0 0x61#8
    fill := 1#7
    L := 1#64 }

/-- HELD after one block, no padding started (the end of V-C18). -/
def heldState : State :=
  withEngine { Engine.reset with phase := .held, hold := true, first := false, reck := 0#7,
                                 L := 64#64, blkcnt := 1#64 }

/-- DONE, as "after abc" of V-C6 to V-C8: PADST LAST, FIRST 0. -/
def doneState : State :=
  withEngine { Engine.reset with phase := .done, padst := .last, first := false, L := 3#64,
                                 lbits := 24#64, blkcnt := 1#64 }

/-- ERROR, the end of V-C13. -/
def errorOneByte : State :=
  withEngine { oneByte.eng with
    phase := .error, errcode := .invariantViolation, errcmd := 0x06000000#32, din := 5#32 }

/-! ### Decoding and well-formedness -/

/-- V-C1. -/
theorem test_decode_nop : decode 0x00000000#32 = .command .nop := by decide
/-- V-C3. -/
theorem test_decode_init : decode 0x01000105#32 = .command (.init 5#8 true) := by decide
/-- V-C4. -/
theorem test_decode_absorb : decode 0x02000061#32 = .command (.absorb 0x61#8) := by decide
/-- V-C21. -/
theorem test_decode_finish : decode 0x03000000#32 = .command .finish := by decide
/-- V-C9. -/
theorem test_decode_resume : decode 0x04000000#32 = .command .resume := by decide
/-- V-C16. -/
theorem test_decode_loadh : decode 0x05000003#32 = .command (.loadh 3) := by decide
/-- P2. -/
theorem test_decode_loadm : decode 0x0600000e#32 = .command (.loadm 14) := by decide
/-- P2. -/
theorem test_decode_compress : decode 0x07000000#32 = .command .compress := by decide
/-- V-C10: the words with a reserved bit set. -/
theorem test_decode_reserved :
    decode 0x00000001#32 = .illegal .reservedBitSet ∧
    decode 0x01000200#32 = .illegal .reservedBitSet ∧
    decode 0x05000008#32 = .illegal .reservedBitSet ∧
    decode 0x06000010#32 = .illegal .reservedBitSet ∧
    decode 0x03000001#32 = .illegal .reservedBitSet := by decide
/-- V-C10: the unassigned opcodes. -/
theorem test_decode_unassigned :
    decode 0x08000000#32 = .illegal .unassignedOpcode ∧
    decode 0xFF000000#32 = .illegal .unassignedOpcode := by decide

/-- R121, R123: one ill-formed word for each check, the lowest reserved bit of each opcode's layout,
and the first unassigned opcode. -/
theorem test_wellFormed_refuses :
    wellFormed 0x00000001#32 = false ∧ wellFormed 0x01000200#32 = false ∧
    wellFormed 0x02000100#32 = false ∧ wellFormed 0x03000001#32 = false ∧
    wellFormed 0x04000001#32 = false ∧ wellFormed 0x05000008#32 = false ∧
    wellFormed 0x06000010#32 = false ∧ wellFormed 0x07000001#32 = false ∧
    wellFormed 0x08000000#32 = false := by decide
/-- R123: the words with every operand bit set are well-formed. -/
theorem test_wellFormed_accepts :
    wellFormed 0x010001FF#32 = true ∧ wellFormed 0x020000FF#32 = true ∧
    wellFormed 0x05000007#32 = true ∧ wellFormed 0x0600000F#32 = true := by decide
/-- The row interface: INIT's row, and a word above its row's bits. -/
theorem test_decodeTableWord :
    decodeTableWord 32 0x01000105 = some (.init 5#8 true) ∧
    decodeTableWord 32 0x100000000 = none := by decide

/-! ### Commands -/

/-- V-C1, V-C8. -/
theorem test_nop :
    after (·.eng.status) (acceptWord 0x00000000#32 State.reset) = some 0x00000080#32 ∧
    after (·.eng.status) (acceptWord 0x00000000#32 doneState) = some 0x000a0027#32 := by decide
/-- V-C2. -/
theorem test_init_clamps :
    after (fun s => (s.eng.reck, s.eng.status)) (acceptWord 0x010000C8#32 State.reset) =
      some (64#7, 0x00000080#32) := by decide
/-- V-C3 and V-C15: HOLD, and INIT leaves ERROR. -/
theorem test_init_hold_and_recovery :
    after (fun s => (s.eng.reck, s.eng.status)) (acceptWord 0x01000105#32 State.reset) =
      some (5#7, 0x000000c0#32) ∧
    after (fun s => (s.eng.reck, s.eng.status, s.eng.fill, s.eng.errcmd, s.eng.din))
      (acceptWord 0x01000003#32 errorOneByte) =
      some (3#7, 0x00000080#32, 0#7, 0#32, 5#32) := by decide
/-- V-C4. -/
theorem test_absorb :
    after (fun s => (readWindow s.eng 0x100#13, s.eng.fill, s.eng.L, s.eng.status))
      (acceptWord 0x02000061#32 State.reset) =
      some (0x61000000#32, 1#7, 1#64, 0x00000080#32) := by decide
/-- V-C11. -/
theorem test_absorb_too_large :
    after (fun s => (s.eng.status, s.eng.errcmd, s.eng.fill, s.eng.L))
      (acceptWord 0x02000000#32 (withEngine { Engine.reset with
        fill := 63#7, L := 0x1FFFFFFFFFFFFFFF#64, first := false,
        blkcnt := 0x007FFFFFFFFFFFFF#64 })) =
      some (0x00000108#32, 0x02000000#32, 63#7, 0x1FFFFFFFFFFFFFFF#64) := by decide
/-- V-C21. -/
theorem test_finish :
    after (fun s => (s.eng.status, s.eng.lbits)) (acceptWord 0x03000000#32 State.reset) =
      some (0x00010095#32, 0#64) := by decide
/-- L2-D6, V-C7. -/
theorem test_finish_large_and_in_done :
    after (·.eng.lbits) (execFinish (withEngine { Engine.reset with
      fill := 63#7, L := 0x1FFFFFFFFFFFFFFF#64 })) = some 0xFFFFFFFFFFFFFFF8#64 ∧
    after (fun s => (s.eng.status, s.eng.errcmd)) (acceptWord 0x03000000#32 doneState) =
      some (0x000a0408#32, 0x03000000#32) := by decide
/-- V-C9, V-C20. -/
theorem test_resume :
    after (·.eng.status) (acceptWord 0x04000000#32 State.reset) = some 0x00000488#32 ∧
    after (·.eng.status) (acceptWord 0x04000000#32 heldState) = some 0x00000040#32 := by decide
/-- L2-D3: from HELD with PADST ZERO, RESUME goes on with the padding: STATUS 0x00020046 before. -/
theorem test_resume_to_pad :
    after (fun s => (s.eng.phase, s.eng.padst))
      (execResume (withEngine { heldState.eng with padst := .zero })) =
      some (.pad, .zero) := by decide
/-- V-C16. -/
theorem test_loadh :
    after (fun s => (s.eng.H[3], s.eng.H[2], s.eng.H[4]))
      (acceptWord 0x05000003#32 (withEngine { Engine.reset with din := 0x01234567#32 })) =
      some (0x01234567#32, 0x3c6ef372#32, 0x510e527f#32) := by decide
/-- V-C17. -/
theorem test_loadm :
    after (fun s => (s.eng.blk[0], s.eng.blk[1], s.eng.blk[2], s.eng.blk[3], s.eng.fill))
      (acceptWord 0x06000000#32 (withEngine { Engine.reset with din := 0x61626380#32 })) =
      some (0x61#8, 0x62#8, 0x63#8, 0x80#8, 0#7) := by decide
/-- V-C13. -/
theorem test_loadm_with_bytes :
    after (fun s => (s.eng.status, s.eng.errcmd, s.eng.blk[0])) (acceptWord 0x06000000#32 oneByte) =
      some (0x00000288#32, 0x06000000#32, 0x61#8) := by decide
/-- V-C12, V-C19. -/
theorem test_compress_errors :
    after (fun s => (s.eng.status, s.eng.fill)) (acceptWord 0x07000000#32 oneByte) =
      some (0x00000288#32, 1#7) ∧
    after (·.eng.status) (acceptWord 0x07000000#32 heldState) = some 0x00000448#32 := by decide
/-- V-C23: COMPRESS at FILL = 0 starts the block. -/
theorem test_compress :
    after (fun s => (s.eng.phase, s.eng.fill)) (acceptWord 0x07000000#32 State.reset) =
      some (.slice, 0#7) := by decide
/-- V-C5, V-C6. -/
theorem test_illegal_word :
    after (fun s => (s.eng.status, s.eng.errcmd)) (acceptWord 0x02000100#32 State.reset) =
      some (0x00000388#32, 0x02000100#32) ∧
    after (·.eng.status) (acceptWord 0x02000100#32 doneState) = some 0x000a0308#32 := by decide
/-- V-C14. -/
theorem test_error_ignores :
    after (fun s => (s.eng.status, s.eng.errcmd)) (acceptWord 0x00000000#32 errorOneByte) =
      some (0x00000288#32, 0x06000000#32) ∧
    after (fun s => (s.eng.status, s.eng.errcmd)) (acceptWord 0xFF000000#32 errorOneByte) =
      some (0x00000288#32, 0x06000000#32) := by decide

/-! ### Micro-steps -/

/-- L2-D2: the marker after "abc". -/
theorem test_pad_marker :
    afterMicro (fun e => (e.blk[3], e.fill, e.padst, e.phase))
      (microStep { Engine.reset with phase := .pad, padst := .mark, fill := 3#7 }) =
      some (0x80#8, 4#7, .zero, .pad) := by decide
/-- L2-D2, L2-D6: the first and the last length byte. -/
theorem test_pad_length :
    afterMicro (fun e => (e.blk[56], e.padst, e.phase))
      (microStep { Engine.reset with phase := .pad, padst := .zero, fill := 56#7,
                                     lbits := 0xFFFFFFFFFFFFFFF8#64 }) =
      some (0xff#8, .len1, .pad) ∧
    afterMicro (fun e => (e.blk[63], e.fill, e.padst, e.phase))
      (microStep { Engine.reset with phase := .pad, padst := .len7, fill := 63#7,
                                     lbits := 24#64 }) =
      some (0x18#8, 64#7, .last, .slice) := by decide
/-- L2-D2: the last word of the "abc" block. -/
theorem test_slice :
    afterMicro (fun e => (e.W[15], e.W[14], e.t, e.phase))
      (microStep { Engine.reset with phase := .slice, blk := Engine.reset.blk.set 63 0x18#8 }) =
      some (0x00000018#32, 0#32, 16#7, .sched) := by decide
/-- L2-S1: W[17] of "abc". -/
theorem test_sched :
    afterMicro (fun e => (e.W[17], e.t, e.phase))
      (microStep { Engine.reset with phase := .sched, t := 17#7,
                                     W := Engine.reset.W.set 15 0x18#32 }) =
      some (0x000f0000#32, 18#7, .sched) := by decide
/-- L2-R1: round 0 of "abc". -/
theorem test_round :
    afterMicro (fun e => (e.t1r, e.t2r, e.V, e.records[0].rw, e.reccnt))
      (microStep { Engine.reset with phase := .round, V := Rom.iv,
                                     W := Engine.reset.W.set 0 0x61626380#32 }) =
      some (0x54da50e8#32, 0x08909ae5#32,
        #v[0x5d6aebcd#32, 0x6a09e667#32, 0xbb67ae85#32, 0x3c6ef372#32, 0xfa2a4622#32,
           0x510e527f#32, 0x9b05688c#32, 0x1f83d9ab#32], 0x61626380#32, 1#7) := by decide
/-- L2-F1. -/
theorem test_final :
    afterMicro (fun e => (e.H[0], e.H[7], e.phase, e.blkcnt))
      (microStep { Engine.reset with
        phase := .final
        t := 64#7
        padst := .last
        V := #v[0x506e3058#32, 0xd39a2165#32, 0x04d24d6c#32, 0xb85e2ce9#32, 0x5ef50f24#32,
                0xfb121210#32, 0x948d25b6#32, 0x961f4894#32] }) =
      some (0xba7816bf#32, 0xf20015ad#32, .done, 1#64) := by decide
/-- L2-F3: the other three next phases. -/
theorem test_phase_after_block :
    phaseAfterBlock .zero true = .held ∧ phaseAfterBlock .zero false = .pad ∧
    phaseAfterBlock .none false = .ready := by decide

/-! ### Primitives -/

/-- V-P2, V-P3, V-P4. -/
theorem test_add_rotate_shift :
    add32 0xFFFFFFFF#32 1#32 = 0#32 ∧ rotr 0x12345678#32 8 = 0x78123456#32 ∧
    rotr 0x00000001#32 1 = 0x80000000#32 ∧ shr 0xFFFFFFFF#32 10 = 0x003fffff#32 := by decide
/-- V-P5, V-P6. -/
theorem test_ch_maj :
    ch 0x510e527f#32 0x9b05688c#32 0x1f83d9ab#32 = 0x1f85c98c#32 ∧
    maj 0x6a09e667#32 0xbb67ae85#32 0x3c6ef372#32 = 0x3a6fe667#32 := by decide
/-- V-P7 to V-P10. -/
theorem test_sigma :
    bsig0 0x12345678#32 = 0x66146474#32 ∧ bsig1 0x12345678#32 = 0x3561abda#32 ∧
    ssig0 0x12345678#32 = 0xe7fce6ee#32 ∧ ssig1 0x12345678#32 = 0xa1f78649#32 := by decide

/-! ### The bus and the step -/

/-- V-M1, V-M2, V-M3, V-M6, V-M7. -/
theorem test_window_constants :
    readWindow Engine.reset 0x000#13 = 0x53323536#32 ∧
    readWindow Engine.reset 0x004#13 = 0x00000080#32 ∧
    readWindow Engine.reset 0x008#13 = 0#32 ∧
    readWindow Engine.reset 0x300#13 = 0x428a2f98#32 ∧
    readWindow Engine.reset 0x3FC#13 = 0xc67178f2#32 ∧
    readWindow Engine.reset 0x0C0#13 = 0x6a09e667#32 ∧
    readWindow Engine.reset 0x0DC#13 = 0x5be0cd19#32 := by decide
/-- V-M10: field 12 of the last record, and the reserved field 13. -/
theorem test_window_records :
    readWindow { Engine.reset with
      records := Engine.reset.records.set 63
        ⟨63#32, 0#32, 0#32, 0#32, 0#32, (Vector.replicate 8 0#32).set 7 0x961f4894#32⟩ }
      0x1FF0#13 = 0x961f4894#32 ∧
    readWindow Engine.reset 0x1FF4#13 = 0#32 := by decide
/-- V-M4, V-M8, V-M11, each as the host's next operation. -/
theorem test_bus :
    after (fun s => (s.eng.status, s.responses))
      (step { State.reset with program := [.write 0x004#13 4 0xFFFFFFFF#32] }) =
      some (0x00000080#32, [.done]) ∧
    after (·.responses) (step { State.reset with program := [.read 0x002#13 4] }) =
      some [.busError] ∧
    after (·.responses) (step { State.reset with program := [.read 0x000#13 2] }) =
      some [.busError] ∧
    after (·.eng.din) (step { State.reset with program := [.write 0x00C#13 4 0x12345678#32] }) =
      some 0x12345678#32 := by decide
/-- R92: a CMD write on a busy engine stands held, and then the engine moves. -/
theorem test_held :
    after (fun s => (s.held, s.program.length, s.eng.phase))
      (step { withEngine { Engine.reset with phase := .slice } with
        program := [.write 0x008#13 4 0#32], turns := [.host] }) = some (true, 1, .slice) ∧
    after (fun s => (s.held, s.program.length, s.eng.phase))
      (step { withEngine { Engine.reset with phase := .slice } with
        program := [.write 0x008#13 4 0#32], held := true, turns := [.host] }) =
      some (true, 1, .sched) := by decide
/-- V-C4 as the first step after reset. -/
theorem test_first_command :
    after (fun s => (s.eng.blk[0], s.eng.fill, s.eng.phase))
      (step (State.reset.withFetchWord 32 0x02000061)) = some (0x61#8, 1#7, .ready) := by decide
/-- R300: reset in the middle of a round. -/
theorem test_reset_turn :
    after (fun s => (s.eng.status, s.eng.t, s.eng.reck, s.program))
      (step { withEngine { Engine.reset with phase := .round, t := 9#7, first := false } with
        program := [.write 0x008#13 4 0#32], held := true, turns := [.reset] }) =
      some (0x00000080#32, 0#7, 8#7, []) := by decide
/-- R128: the words of `loadstate`'s first pair and of `hash`. -/
theorem test_expansions :
    (HostStmt.loadstate (Vector.replicate 8 7#32)).expand.take 2 =
      [.write 0x00C#13 4 7#32, .write 0x008#13 4 0x05000000#32] ∧
    (hashOps 64#8 false [0x61#8]) =
      [.write 0x008#13 4 0x01000040#32, .write 0x008#13 4 0x02000061#32,
       .write 0x008#13 4 0x03000000#32] := by decide
/-- R244: with HOLD = 1 a message of 64 bytes has one RESUME before its FINISH, and none after. -/
theorem test_held_driver :
    (hashHeldOps 0#8 (List.replicate 64 0#8)).drop 64 =
      [HostOp.issue (.absorb 0#8), HostOp.issue .resume, HostOp.issue .finish] := by decide
/-- L1-2: the rendering of the first two words. -/
theorem test_digest_text :
    (digestHex #v[0xba7816bf#32, 0x8f01cfea#32, 0x414140de#32, 0x5dae2223#32, 0xb00361a3#32,
      0x96177a9c#32, 0xb410ff61#32, 0xf20015ad#32]).toList.take 16 =
      ['b', 'a', '7', '8', '1', '6', 'b', 'f', '8', 'f', '0', '1', 'c', 'f', 'e', 'a'] := by decide

/-! ### Witnesses -/

open Sys2Proof.Safety Sys2Proof.Claims

/-- Reset's engine in the phase `p`. -/
def inPhase (p : Phase) : State := withEngine { Engine.reset with phase := p }

/-- READY at the greatest length. -/
def fullLength : State :=
  withEngine { Engine.reset with fill := 63#7, L := 0x1FFFFFFFFFFFFFFF#64 }

/-- PAD at the position `p` with FILL `f`. -/
def padAt (p : PadState) (f : BitVec 7) : Engine :=
  { Engine.reset with phase := .pad, padst := p, fill := f }

/-- `s` with the host operation `op` before it and the turn `t`. -/
def facing (s : State) (op : HostOp) (t : Turn) : State :=
  { s with program := op :: s.program, turns := [t] }

theorem idle_reset : Idle State.reset := .inl rfl
theorem open_reset : Open State.reset := .inl rfl

/-- The invariant holds after one ABSORB. -/
theorem engineInv_oneByte : EngineInv oneByte.eng where
  shape := ⟨by decide, rfl, rfl⟩
  reck_le := by decide
  reccnt_le := by decide
  length_le := by decide
  lbits_eq := by decide
  fill_mod := by decide
  error_set := by decide
  error_off := by decide

/-- So it does with any host program and schedule, and nothing held. -/
theorem inv_oneByte (p : List HostOp) (t : List Turn) :
    Inv { oneByte with program := p, turns := t } := ⟨engineInv_oneByte, nofun⟩

/-- The invariant of a busy engine: a raw block in SLICE. -/
theorem inv_slice : EngineInv (inPhase .slice).eng where
  shape := ⟨.inl ⟨rfl, rfl⟩, rfl⟩
  reck_le := by decide
  reccnt_le := by decide
  length_le := by decide
  lbits_eq := by decide
  fill_mod := by decide
  error_set := by decide
  error_off := by decide

theorem witness_NopChangesNothing :
    Idle State.reset ∧ Idle heldState ∧ Idle doneState ∧ Idle errorOneByte :=
  ⟨.inl rfl, .inr (.inl rfl), .inr (.inr (.inl rfl)), .inr (.inr (.inr rfl))⟩

theorem witness_InitReinitialisesTheEngine : Idle State.reset ∧ Idle errorOneByte :=
  ⟨.inl rfl, .inr (.inr (.inr rfl))⟩

/-- For every `IllegalWords` clause: the lowest and the highest reserved bit of the row. -/
theorem witness_IllegalWords :
    Open State.reset ∧ Open heldState ∧ Open doneState ∧
    ∀ r ∈ ([(0x00#8, 0x00FFFFFF#32, 0x00000001#32), (0x00#8, 0x00FFFFFF#32, 0x00800000#32),
            (0x01#8, 0x00FFFE00#32, 0x01000200#32), (0x01#8, 0x00FFFE00#32, 0x01800000#32),
            (0x02#8, 0x00FFFF00#32, 0x02000100#32), (0x02#8, 0x00FFFF00#32, 0x02800000#32),
            (0x03#8, 0x00FFFFFF#32, 0x03000001#32), (0x03#8, 0x00FFFFFF#32, 0x03800000#32),
            (0x04#8, 0x00FFFFFF#32, 0x04000001#32), (0x04#8, 0x00FFFFFF#32, 0x04800000#32),
            (0x05#8, 0x00FFFFF8#32, 0x05000008#32), (0x05#8, 0x00FFFFF8#32, 0x05800000#32),
            (0x06#8, 0x00FFFFF0#32, 0x06000010#32), (0x06#8, 0x00FFFFF0#32, 0x06800000#32),
            (0x07#8, 0x00FFFFFF#32, 0x07000001#32), (0x07#8, 0x00FFFFFF#32, 0x07800000#32)] :
          List (BitVec 8 × Word × Word)),
      r.2.2.extractLsb' 24 8 = r.1 ∧ r.2.2 &&& r.2.1 ≠ 0#32 :=
  ⟨.inl rfl, .inr (.inl rfl), .inr (.inr rfl), by simp⟩

/-- READY below the greatest length with FILL 0 and 63, READY at it, and HELD and DONE. -/
theorem witness_AbsorbAppendsOneByte :
    (State.reset.eng.phase = .ready ∧ State.reset.eng.fill.toNat < 64 ∧
      State.reset.eng.L.toNat ≠ 2 ^ 61 - 1) ∧
    (∃ s : State, s.eng.phase = .ready ∧ s.eng.fill.toNat = 63 ∧
      s.eng.L.toNat = 2 ^ 61 - 1 - 64) ∧
    (fullLength.eng.phase = .ready ∧ fullLength.eng.L.toNat = 2 ^ 61 - 1) ∧
    heldState.eng.phase = .held ∧ doneState.eng.phase = .done :=
  ⟨by decide,
   ⟨withEngine { Engine.reset with fill := 63#7, L := 0x1FFFFFFFFFFFFFBF#64 }, by decide⟩,
   by decide, rfl, rfl⟩

theorem witness_FinishStartsThePadding :
    (State.reset.eng.phase = .ready ∧ State.reset.eng.L.toNat ≤ 2 ^ 61 - 1) ∧
    (fullLength.eng.phase = .ready ∧ fullLength.eng.L.toNat ≤ 2 ^ 61 - 1) := by decide

theorem witness_ResumeLeavesHeld :
    (heldState.eng.phase = .held ∧ heldState.eng.padst = .none) ∧
    (∃ s : State, s.eng.phase = .held ∧ s.eng.padst ≠ .none) ∧
    State.reset.eng.phase = .ready ∧ doneState.eng.phase = .done :=
  ⟨by decide, ⟨withEngine { heldState.eng with padst := .zero }, by decide⟩, rfl, rfl⟩

theorem witness_LoadhWritesOneHashWord :
    State.reset.eng.phase = .ready ∧ oneByte.eng.phase = .ready := by decide

/-- READY with FILL 0, and with FILL 1. -/
theorem witness_LoadmWritesFourBlockBytes :
    (State.reset.eng.phase = .ready ∧ State.reset.eng.fill = 0#7) ∧
    (oneByte.eng.phase = .ready ∧ oneByte.eng.fill ≠ 0#7) := by decide

/-- READY with FILL 0, and with FILL 63. -/
theorem witness_CompressStartsABlock :
    (State.reset.eng.phase = .ready ∧ State.reset.eng.fill = 0#7) ∧
    (fullLength.eng.phase = .ready ∧ fullLength.eng.fill ≠ 0#7) := by decide

theorem witness_CommandFrame : ∀ i : Instr, ∃ s', exec i State.reset = .next s' := by
  intro i; cases i <;> exact ⟨_, rfl⟩

/-- READY with FILL 0 and with FILL 1 below the greatest length, and READY with FILL 63 at it. -/
theorem witness_LegalityTable :
    errorOneByte.eng.phase = .error ∧ heldState.eng.phase = .held ∧
    doneState.eng.phase = .done ∧
    (State.reset.eng.phase = .ready ∧ State.reset.eng.fill = 0#7) ∧
    (oneByte.eng.phase = .ready ∧ oneByte.eng.fill.toNat ≤ 63 ∧ oneByte.eng.fill ≠ 0#7 ∧
      oneByte.eng.L.toNat ≠ 2 ^ 61 - 1) ∧
    (fullLength.eng.phase = .ready ∧ fullLength.eng.fill ≠ 0#7 ∧
      fullLength.eng.L.toNat = 2 ^ 61 - 1) ∧
    (wellFormed 0xFF000000#32 = false ∧ wellFormed 0x00800000#32 = false) := by decide

/-- In ERROR, the word of an INIT, and a word of none. -/
theorem witness_ErrorPhaseIgnoresAllButInit :
    errorOneByte.eng.phase = .error ∧ decode 0x010001FF#32 = .command (.init 0xFF#8 true) ∧
    ¬ ∃ kreq hld, decode 0x08000000#32 = .command (.init kreq hld) := by
  refine ⟨rfl, by decide, ?_⟩
  rintro ⟨k, h, e⟩
  have : decode 0x08000000#32 = .illegal .unassignedOpcode := by decide
  rw [this] at e
  cases e

theorem witness_ErrorChecksInOrder :
    Open doneState ∧ Open fullLength ∧ wellFormed 0x02000100#32 = false ∧
    (wellFormed 0x03000000#32 = true ∧ legalIn .finish doneState.eng.phase = false) ∧
    (wellFormed 0x02000000#32 = true ∧ legalIn (.absorb 0#8) fullLength.eng.phase = true) ∧
    after (·.eng.phase) (acceptWord 0x02000000#32 fullLength) = some .error :=
  ⟨.inr (.inr rfl), .inl rfl, by decide, by decide, by decide, by decide⟩

theorem witness_ErrorEntryChangesNothingElse :
    Open State.reset ∧ ∃ s', acceptWord 0x04000000#32 State.reset = .next s' ∧
      s'.eng.phase = .error := ⟨.inl rfl, _, rfl, rfl⟩

theorem witness_FirstErrorIsKept :
    errorOneByte.eng.phase = .error ∧ ∃ s', step errorOneByte = .next s' := ⟨rfl, _, rfl⟩

theorem witness_MicroStepsRaiseNoError :
    EngineInv (inPhase .slice).eng ∧ (inPhase .slice).eng.phase.busy = true := ⟨inv_slice, rfl⟩

/-- Every case of PADST at the FILL it stands at, and the two boundary values of FILL. -/
theorem witness_PadStepAppendsOneByte :
    ∀ p ∈ ([(.mark, 0#7), (.mark, 63#7), (.zero, 0#7), (.zero, 55#7), (.zero, 56#7), (.zero, 63#7),
            (.len1, 57#7), (.len2, 58#7), (.len3, 59#7), (.len4, 60#7), (.len5, 61#7), (.len6, 62#7),
            (.len7, 63#7)] : List (PadState × BitVec 7)),
      (padAt p.1 p.2).phase = .pad ∧ (padAt p.1 p.2).fill.toNat < 64 ∧
      (padAt p.1 p.2).padst = p.1 := by decide

theorem witness_SliceStepReadsBigEndianWords : (inPhase .slice).eng.phase = .slice := rfl

/-- t = 16 and t = 63. -/
theorem witness_SchedStepComputesOneWord :
    ∀ t ∈ [16#7, 62#7, 63#7], ∃ e : Engine, e.phase = .sched ∧ e.t = t ∧
      16 ≤ e.t.toNat ∧ e.t.toNat < 64 := by
  intro t ht
  refine ⟨{ Engine.reset with phase := .sched, t := t }, rfl, rfl, ?_⟩
  revert t; decide

/-- t = 0 recorded, t = 63 not, and t = 63 recorded. -/
theorem witness_RoundStepMixesAndRecords :
    (∃ e : Engine, e.phase = .round ∧ e.t.toNat < 64 ∧ e.first = true ∧
      e.t.toNat < e.reck.toNat ∧ e.t = 0#7) ∧
    (∃ e : Engine, e.phase = .round ∧ e.t.toNat < 64 ∧
      ¬ (e.first = true ∧ e.t.toNat < e.reck.toNat) ∧ e.t = 63#7) ∧
    (∃ e : Engine, e.phase = .round ∧ e.t.toNat < 64 ∧ e.first = true ∧
      e.t.toNat < e.reck.toNat ∧ e.t = 63#7) :=
  ⟨⟨{ Engine.reset with phase := .round }, by decide⟩,
   ⟨{ Engine.reset with phase := .round, t := 63#7 }, by decide⟩,
   ⟨{ Engine.reset with phase := .round, t := 63#7, reck := 64#7 }, by decide⟩⟩

/-- The four clauses of the next phase. -/
theorem witness_FinalStepAddsAndChoosesThePhase :
    ∀ p ∈ ([(.last, true), (.last, false), (.zero, true), (.none, true), (.zero, false),
            (.none, false)] : List (PadState × Bool)),
      ∃ e : Engine, e.phase = .final ∧ e.padst = p.1 ∧ e.hold = p.2 := by
  intro p _
  exact ⟨{ Engine.reset with phase := .final, padst := p.1, hold := p.2 }, rfl, rfl, rfl⟩

theorem witness_RotateAndShiftBits : ∃ n i : Nat, n < 32 ∧ i < 32 ∧ i + n ≤ 31 ∧ n = 31 :=
  ⟨31, 0, by decide⟩
theorem witness_ChooseAndMajorityBits : ∃ i : Nat, i < 32 ∧ i = 31 := ⟨31, by decide⟩
theorem witness_SigmaFunctionBits : ∃ i : Nat, i < 32 ∧ i = 31 := ⟨31, by decide⟩

theorem witness_RegisterMapReads :
    (∃ i, i < 8 ∧ i = 7) ∧ (∃ i, i < 16 ∧ i = 15) ∧ ∃ t, t < 64 ∧ t = 63 :=
  ⟨⟨7, by decide⟩, ⟨15, by decide⟩, ⟨63, by decide⟩⟩

theorem witness_RecordWindowReads :
    (∃ j, j < 64 ∧ j = 63) ∧ (∃ f, f < 8 ∧ f = 7) ∧ ∃ f : Nat, 13 ≤ f ∧ f ≤ 15 :=
  ⟨⟨63, by decide⟩, ⟨7, by decide⟩, ⟨13, by decide⟩⟩

/-- The host moves on an idle engine, and on a busy one with the host's turn. -/
theorem hostMoves_facing (op : HostOp) :
    HostMoves (facing State.reset op .engine) ∧ HostMoves (facing (inPhase .round) op .host) :=
  ⟨⟨nofun, .inl (.inl rfl)⟩, ⟨nofun, .inr ⟨rfl, rfl⟩⟩⟩

/-- Both ends of every reserved range. -/
theorem witness_ReservedOffsetsReadZero :
    (∀ off ∈ [0x03C#13, 0x088#13, 0x0BC#13, 0x0E0#13, 0x0FC#13, 0x140#13, 0x1FC#13, 0x400#13,
              0xFFC#13, 0x1034#13, 0x1FFC#13],
      off.toNat % 4 = 0 ∧
      (off = 0x03C#13 ∨ (0x088 ≤ off.toNat ∧ off.toNat ≤ 0x0BC) ∨
        (0x0E0 ≤ off.toNat ∧ off.toNat ≤ 0x0FC) ∨ (0x140 ≤ off.toNat ∧ off.toNat ≤ 0x1FC) ∨
        (0x400 ≤ off.toNat ∧ off.toNat ≤ 0xFFC) ∨
        (0x1000 ≤ off.toNat ∧ 52 ≤ off.toNat % 64))) ∧
    HostMoves (facing (inPhase .round) (.write 0x03C#13 4 1#32) .host) :=
  ⟨by simp, (hostMoves_facing _).2⟩

theorem witness_ReadsHaveNoSideEffect :
    HostMoves (facing (inPhase .round) (.read 0x1FFC#13 4) .host) ∧
    (facing (inPhase .round) (.read 0x1FFC#13 4) .host).program = .read 0x1FFC#13 4 :: [] ∧
    (0x1FFC#13).toNat % 4 = 0 := ⟨(hostMoves_facing _).2, rfl, by decide⟩

theorem witness_OtherWritesAreIgnored :
    HostMoves (facing State.reset (.write 0x010#13 4 1#32) .engine) ∧
    (facing State.reset (.write 0x010#13 4 1#32) .engine).program = .write 0x010#13 4 1#32 :: [] ∧
    (0x010#13).toNat % 4 = 0 ∧ 0x010#13 ≠ 0x008#13 ∧ 0x010#13 ≠ 0x00C#13 :=
  ⟨(hostMoves_facing _).1, rfl, by decide, by decide, by decide⟩

theorem witness_DinIsWrittenByTheBusOnly :
    HostMoves (facing (inPhase .round) (.write 0x00C#13 4 5#32) .host) ∧
    (facing (inPhase .round) (.write 0x00C#13 4 5#32) .host).program =
      .write 0x00C#13 4 5#32 :: [] ∧
    (∃ s', exec .nop State.reset = .next s') ∧
    (∃ e', microStep (inPhase .slice).eng = .ok e') ∧
    (∃ s', step (facing State.reset (.write 0x00C#13 4 5#32) .host) = .next s' ∧
      s'.eng.din = 5#32) ∧
    ∃ s', step { errorOneByte with turns := [.reset] } = .next s' ∧ errorOneByte.eng.din ≠ 0#32 ∧
      s'.eng.din = 0#32 :=
  ⟨(hostMoves_facing _).2, rfl, ⟨_, rfl⟩, ⟨_, rfl⟩, ⟨_, rfl, rfl⟩, ⟨_, rfl, by decide, rfl⟩⟩

/-- A narrow read, a misaligned read, and a wide write. -/
theorem witness_BusErrorsHaveNoEffect :
    HostMoves (facing State.reset (.read 0x000#13 2) .engine) ∧
    HostMoves (facing State.reset (.read 0x002#13 4) .engine) ∧
    HostMoves (facing (inPhase .round) (.write 0x008#13 8 0#32) .host) ∧
    (0x002#13).toNat % 4 ≠ 0 :=
  ⟨(hostMoves_facing _).1, (hostMoves_facing _).1, (hostMoves_facing _).2, by decide⟩

theorem witness_CommandPortHoldsWhileBusy :
    (∃ s s' : State, s.turn ≠ .reset ∧ s.program = .write 0x008#13 4 0#32 :: [] ∧
      s.eng.phase.busy = true ∧ step s = .next s' ∧ s'.held = true) ∧
    (∃ s s' : State, s.turn ≠ .reset ∧ s.program = .write 0x008#13 4 0#32 :: [] ∧
      s.eng.phase.busy = true ∧ step s = .next s' ∧ s'.held = false) ∧
    (∃ s : State, s.turn ≠ .reset ∧ s.program = .write 0x008#13 4 0#32 :: [] ∧ Idle s) :=
  ⟨⟨facing (inPhase .slice) (.write 0x008#13 4 0#32) .host, _, by decide, rfl, rfl, rfl, rfl⟩,
   ⟨facing (inPhase .slice) (.write 0x008#13 4 0#32) .engine, _, by decide, rfl, rfl, rfl, rfl⟩,
   ⟨facing State.reset (.write 0x008#13 4 0#32) .host, by decide, rfl, .inl rfl⟩⟩

theorem witness_IdleEngineKeepsItsState :
    Idle State.reset ∧ State.reset.turn ≠ .reset ∧ State.reset.program = [] :=
  ⟨.inl rfl, by decide, rfl⟩

theorem witness_StepRunsTheDecodedCommand :
    ∃ s : State, s.turn ≠ .reset ∧ Idle s ∧ s.program = .write cmdOffset 4 0x02000061#32 :: [] ∧
      decode 0x02000061#32 = .command (.absorb 0x61#8) :=
  ⟨State.reset.withFetchWord 32 0x02000061, by decide, .inl rfl, rfl, by decide⟩

/-- The engine's turn, the host's turn held, and the host's turn with nothing to do. -/
theorem witness_StepTakesTheMicroStep :
    (inPhase .slice).eng.phase.busy = true ∧ (inPhase .slice).turn = .engine ∧
    (∃ s : State, s.eng.phase.busy = true ∧ s.turn = .host ∧ s.held = true) ∧
    (∃ s : State, s.eng.phase.busy = true ∧ s.turn = .host ∧ s.program = []) ∧
    ∃ e, microStep (inPhase .slice).eng = .ok e :=
  ⟨rfl, rfl,
   ⟨{ facing (inPhase .slice) (.write cmdOffset 4 0#32) .host with held := true }, rfl, rfl, rfl⟩,
   ⟨{ inPhase .slice with turns := [.host] }, rfl, rfl, rfl⟩, ⟨_, rfl⟩⟩

theorem witness_ResetFromAnyPhase :
    (∃ s : State, s.turn = .reset ∧ s.eng.phase = .round ∧ s.held = true) ∧
    Idle State.reset ∧ ∃ s', exec (.init 8#8 false) State.reset = .next s' :=
  ⟨⟨{ facing (inPhase .round) (.write cmdOffset 4 0#32) .reset with held := true }, rfl, rfl, rfl⟩,
   .inl rfl, ⟨_, rfl⟩⟩

theorem witness_EveryStepKeepsTheInvariant :
    ∃ s s' : State, Inv s ∧ step s = .next s' ∧ s'.eng.phase = .pad :=
  ⟨{ oneByte with program := [.write cmdOffset 4 0x03000000#32], turns := [] }, _,
    inv_oneByte _ _, rfl, rfl⟩

theorem witness_InvariantRunsNeverStop : Inv { oneByte with program := [.wait], turns := [] } :=
  inv_oneByte _ _

theorem witness_DigestStaysWhileDone :
    doneState.eng.phase = .done ∧ doneState.turn ≠ .reset ∧ ∃ s', step doneState = .next s' :=
  ⟨rfl, by decide, _, rfl⟩

/-- An ABSORB, a FINAL step, and a reset. -/
theorem witness_CountersChangeOnlyAsStated :
    (∃ s', step (State.reset.withFetchWord 32 0x02000061) = .next s' ∧ s'.eng.L = 1#64) ∧
    (∃ s', step (inPhase .final) = .next s' ∧ s'.eng.blkcnt = 1#64) ∧
    ∃ s', step { oneByte with turns := [.reset] } = .next s' ∧ s'.eng.L = 0#64 :=
  ⟨⟨_, rfl, rfl⟩, ⟨_, rfl, rfl⟩, ⟨_, rfl, rfl⟩⟩

theorem witness_RecordingHappensForTheFirstBlockOnly :
    ∃ s', step (inPhase .round) = .next s' ∧ s'.eng.reccnt = 1#7 := ⟨_, rfl, by decide⟩

/-- Two engines with different RECK in ROUND, and in READY. -/
theorem witness_RecorderDoesNotDisturbTheEngine :
    (∃ e₁ e₂ e₁' : Engine, SameButRecorder e₁ e₂ ∧ e₁.reck ≠ e₂.reck ∧
      microStep e₁ = .ok e₁') ∧
    (∃ s₁ s₂ s₁' : State, SameButRecorder s₁.eng s₂.eng ∧ s₁.eng.reck ≠ s₂.eng.reck ∧
      exec .finish s₁ = .next s₁') :=
  ⟨⟨(inPhase .round).eng, { (inPhase .round).eng with reck := 0#7 }, _, rfl, by decide, rfl⟩,
   ⟨State.reset, withEngine { Engine.reset with reck := 0#7 }, _, rfl, by decide, rfl⟩⟩

theorem witness_BlockComputesTheCompressionFunction : (inPhase .slice).eng.phase = .slice := rfl

/-- With FIRST = 1 and RECK 8 and 64, and with FIRST = 0. -/
theorem witness_BlockRecordsItsLeadingRounds :
    (∃ e : Engine, e.phase = .slice ∧ e.first = true ∧ e.reck.toNat ≤ 64 ∧ e.reck = 64#7) ∧
    (∃ e : Engine, e.phase = .slice ∧ e.first = true ∧ e.reck.toNat ≤ 8 ∧ e.reck ≠ 0#7) ∧
    ∃ e : Engine, e.phase = .slice ∧ e.first = false :=
  ⟨⟨{ (inPhase .slice).eng with reck := 64#7 }, by decide⟩, ⟨(inPhase .slice).eng, by decide⟩,
   ⟨{ (inPhase .slice).eng with first := false }, by decide⟩⟩

theorem witness_FinishPadsTheCurrentBlock :
    ∃ (s s' : State) (tail : List Byte), Inv s ∧ s.eng.phase = .ready ∧
      tail.length = s.eng.fill.toNat ∧
      (∀ (i : Nat) (h : i < 64), i < tail.length → tail[i]? = some s.eng.blk[i]) ∧
      exec .finish s = .next s' := by
  refine ⟨{ oneByte with program := [], turns := [] }, _, [0x61#8], inv_oneByte _ _, rfl, rfl, ?_,
    rfl⟩
  intro i h h1
  obtain rfl : i = 0 := by simpa using h1
  rfl

theorem witness_HeldWriteIsAccepted :
    ∃ s : State, Inv s ∧ NoReset s.turns ∧ s.program = .write cmdOffset 4 0xFF000000#32 :: [] ∧
      s.eng.phase.busy = true :=
  ⟨{ inPhase .slice with program := [.write cmdOffset 4 0xFF000000#32], turns := [.host] },
    ⟨inv_slice, nofun⟩, by unfold NoReset; decide, rfl, rfl⟩

theorem witness_FinishReachesDoneInTheStatedSteps :
    ∃ s s' : State, Inv s ∧ s.eng.phase = .ready ∧ s.eng.hold = false ∧
      exec .finish s = .next s' :=
  ⟨{ oneByte with program := [], turns := [] }, _, inv_oneByte _ _, rfl, rfl, rfl⟩

theorem witness_BusyPhasesEndWithin300MicroSteps :
    EngineInv (inPhase .slice).eng ∧ (inPhase .slice).eng.phase.busy = true := ⟨inv_slice, rfl⟩

/-- The message "abc", from a state that still holds a byte of an older one, the host moving first. -/
theorem witness_MachineComputesTheDigest :
    ∃ s : State, Inv s ∧ NoReset s.turns ∧ [0x61#8, 0x62#8, 0x63#8].length < 2 ^ 61 ∧
      s.program = hashOps 64#8 false [0x61#8, 0x62#8, 0x63#8] :=
  ⟨{ oneByte with program := hashOps 64#8 false [0x61#8, 0x62#8, 0x63#8], turns := [.host] },
    inv_oneByte _ _, by unfold NoReset; decide, by decide, rfl⟩

theorem witness_HoldingHostGetsTheSameDigest :
    ∃ s : State, Inv s ∧ NoReset s.turns ∧ (List.replicate 56 0x61#8).length < 2 ^ 61 ∧
      s.program = hashHeldOps 0#8 (List.replicate 56 0x61#8) :=
  ⟨{ oneByte with program := hashHeldOps 0#8 (List.replicate 56 0x61#8), turns := [] },
    inv_oneByte _ _, by unfold NoReset; decide, by decide, rfl⟩

theorem witness_ReadDigestAnswersTheHashWords :
    ∃ s : State, Idle s ∧ NoReset s.turns ∧ s.program = readDigestOps ++ [] :=
  ⟨{ doneState with program := readDigestOps ++ [] }, .inr (.inr (.inl rfl)),
    by unfold NoReset; decide, rfl⟩

theorem witness_LoadblockFillsTheBlockBuffer :
    ∃ s : State, s.eng.phase = .ready ∧ s.eng.fill = 0#7 ∧ NoReset s.turns ∧
      s.program = (HostStmt.loadblock (Vector.replicate 16 7#32)).expand :=
  ⟨{ State.reset with program := (HostStmt.loadblock (Vector.replicate 16 7#32)).expand },
    rfl, rfl, by unfold NoReset; decide, rfl⟩

theorem witness_ConstantsAreTheRootFractions : (∃ t, t < 64 ∧ t = 63) ∧ ∃ i, i < 8 ∧ i = 7 :=
  ⟨⟨63, by decide⟩, ⟨7, by decide⟩⟩

end Sys2Proof.Tests
end

section
/-!
PROOF. The host's move: on the host's move (`Claims.HostMoves`) a step is the host's first operation,
and completing that operation is `Claims.afterAccess`. With one rule for a 32-bit aligned read these
settle O32.
-/

namespace Sys2Proof.Claims

open Sys2Proof.Machine

/-! ### The step on the host's move (R91, R92) -/

theorem Idle.not_busy {s : State} (h : Idle s) : s.eng.phase.busy = false :=
  (Phase.idle_iff _).2 h

/-- In an idle phase the engine has no move (R31): a turn that is no reset is the host's. -/
theorem step_of_idle {s : State} (hr : s.turn ≠ .reset) (hi : Idle s) :
    step s = hostTurn s.takeTurn := by
  have hb := hi.not_busy
  unfold step nextMove
  cases ht : s.turn with
  | reset => exact absurd ht hr
  | host => simp [hb]
  | engine => simp [hb]

/-- A free host takes its own turn, busy engine or not. -/
theorem step_of_hostFree {s : State} (ht : s.turn = .host) (hf : s.hostFree = true) :
    step s = hostTurn s.takeTurn := by
  simp [step, nextMove, ht, hf]

theorem hostFree_of_cons {s : State} {op : HostOp} {rest : List HostOp} (hh : s.held = false)
    (hp : s.program = op :: rest) : s.hostFree = true := by
  simp [State.hostFree, hh, hp]

/-- On the host's move the step is the host's, whatever its next operation is. -/
theorem step_of_hostMoves {s : State} {op : HostOp} {rest : List HostOp} (hm : HostMoves s)
    (hp : s.program = op :: rest) : step s = hostTurn s.takeTurn := by
  obtain ⟨hr, hi | ⟨ht, hh⟩⟩ := hm
  · exact step_of_idle hr hi
  · exact step_of_hostFree ht (hostFree_of_cons hh hp)

/-- The statements' `afterAccess` is the model's completion once the turn is taken. -/
theorem takeTurn_complete {s : State} {op : HostOp} {rest : List HostOp}
    (hp : s.program = op :: rest) (r : BusResponse) :
    s.takeTurn.complete r = afterAccess s rest r := by
  simp [State.complete, State.takeTurn, afterAccess, hp]

/-! ### Reads (R86, R88) -/

theorem accessAllowed_word {off : BitVec 13} (ha : off.toNat % 4 = 0) :
    accessAllowed off 4 = true := by
  simp [accessAllowed, ha]

/-- A 32-bit aligned read completes with the window's value. -/
theorem hostTurn_read {s : State} {off : BitVec 13} {rest : List HostOp}
    (hp : s.program = .read off 4 :: rest) (ha : off.toNat % 4 = 0) :
    hostTurn s = .next (s.complete (.data (readWindow s.eng off))) := by
  simp [hostTurn, hp, accessAllowed_word ha]

/-- Settles O32: the step is the host's read, and completing a read keeps the engine. -/
theorem readsHaveNoSideEffect : Obligations.ReadsHaveNoSideEffect := by
  intro s off rest hm hp ha
  calc step s = hostTurn s.takeTurn := step_of_hostMoves hm hp
    _ = .next (s.takeTurn.complete (.data (readWindow s.eng off))) := hostTurn_read hp ha
    _ = .next (afterAccess s rest (.data (readWindow s.eng off))) := by rw [takeTurn_complete hp]

end Sys2Proof.Claims
end

section
/-!
PROOF. What a command can do to the engine, said once, case by case (`Answers`), for a command and
for a raw word.
-/

namespace Sys2Proof.Machine

/-- What the engine can become when a word that decodes to `d` is accepted: nothing changes (NOP, or
a command ERROR ignores), an error is raised outside ERROR, or a command's own rule applies. -/
inductive Answers : Decoded → Engine → Engine → Prop
  | ignored (d : Decoded) (e : Engine) : Answers d e e
  | raised (d : Decoded) (e : Engine) (code : ErrCode) (c : Word) (hcode : code ≠ .none)
      (hphase : e.phase ≠ .error) :
      Answers d e { e with errcode := code, errcmd := c, phase := .error }
  | init (e : Engine) (kreq : BitVec 8) (hld : Bool) :
      Answers (.command (.init kreq hld)) e (e.initialise kreq hld)
  | absorb (e : Engine) (b : Byte) (hphase : e.phase = .ready) (hL : e.L ≠ Config.maxLength)
      (hfill : e.fill.toNat < 64) :
      Answers (.command (.absorb b)) e { e with
        blk := e.blk.set e.fill.toNat b hfill
        fill := e.fill + 1#7
        L := e.L + 1#64
        phase := if e.fill + 1#7 = 64#7 then .slice else e.phase }
  | finish (e : Engine) (hphase : e.phase = .ready) :
      Answers (.command .finish) e
        { e with lbits := bitLength e.L, padst := .mark, phase := .pad }
  | resume (e : Engine) (hphase : e.phase = .held) :
      Answers (.command .resume) e { e with phase := if e.padst = .none then .ready else .pad }
  | loadh (e : Engine) (i : Fin 8) (hphase : e.phase = .ready) :
      Answers (.command (.loadh i)) e { e with H := e.H.set i.val e.din i.isLt }
  | loadm (e : Engine) (i : Fin 16) (hphase : e.phase = .ready) :
      Answers (.command (.loadm i)) e { e with blk := putBlockWord e.blk i e.din }
  | compress (e : Engine) (hphase : e.phase = .ready) (hfill : e.fill = 0#7) :
      Answers (.command .compress) e { e with phase := .slice }

/-- Acceptance ignores or raises by itself, so only the command's own body is left to look at. -/
theorem acceptCommand_answers {i : Instr} {body : State → Host.Outcome State Fault Refusal}
    {s s' : State} (h : acceptCommand i body s = .next s')
    (hbody : legalIn i s.eng.phase = true → body s = .next s' →
      Answers (.command i) s.eng s'.eng) :
    Answers (.command i) s.eng s'.eng := by
  obtain ⟨-, ⟨hl, h⟩ | ⟨-, -, rfl⟩ | ⟨-, he, rfl⟩⟩ := acceptCommand_cases h
  · exact hbody hl h
  · exact .ignored _ _
  · exact .raised _ _ .protocolError _ (by decide) he

/-- A byte that is stored has a place in the block (R172, R200). -/
theorem Engine.appendByte_eq_some {e e' : Engine} {b : Byte} (h : e.appendByte b = some e') :
    ∃ hfill : e.fill.toNat < 64, e' = { e with
      blk := e.blk.set e.fill.toNat b hfill
      fill := e.fill + 1#7
      phase := if e.fill + 1#7 = 64#7 then .slice else e.phase } := by
  by_cases hfill : e.fill.toNat < 64
  · rw [appendByte_of_lt hfill] at h
    cases h
    exact ⟨hfill, rfl⟩
  · rw [appendByte_none_iff.2 (by omega)] at h
    cases h

/-- A legal command's own error: READY is not ERROR. -/
theorem Answers.raised_of_ready {d : Decoded} {e : Engine} (code : ErrCode) (c : Word)
    (hcode : code ≠ .none) (h : e.phase = .ready) :
    Answers d e { e with errcode := code, errcmd := c, phase := .error } :=
  .raised d e code c hcode (by simp [h])

theorem execAbsorb_answers {b : Byte} {s s' : State} (h : execAbsorb b s = .next s') :
    Answers (.command (.absorb b)) s.eng s'.eng := by
  refine acceptCommand_answers h fun hl hb => ?_
  have hready : s.eng.phase = .ready := by simpa [legalIn] using hl
  split at hb
  next =>
    cases hb
    exact .raised_of_ready .inputTooLarge _ (by decide) hready
  next hL =>
    split at hb
    next e he =>
      obtain ⟨hfill, rfl⟩ := Engine.appendByte_eq_some he
      cases hb
      exact .absorb _ b hready hL hfill
    next => cases hb

theorem execLoadm_answers {i : Fin 16} {s s' : State} (h : execLoadm i s = .next s') :
    Answers (.command (.loadm i)) s.eng s'.eng := by
  refine acceptCommand_answers h fun hl hb => ?_
  have hready : s.eng.phase = .ready := by simpa [legalIn] using hl
  split at hb <;> cases hb
  · exact .loadm _ i hready
  · exact .raised_of_ready .invariantViolation _ (by decide) hready

theorem execCompress_answers {s s' : State} (h : execCompress s = .next s') :
    Answers (.command .compress) s.eng s'.eng := by
  refine acceptCommand_answers h fun hl hb => ?_
  have hready : s.eng.phase = .ready := by simpa [legalIn] using hl
  split at hb <;> cases hb
  · exact .compress _ hready ‹_›
  · exact .raised_of_ready .invariantViolation _ (by decide) hready

/-- Everything a command can make of the engine. -/
theorem exec_answers {i : Instr} {s s' : State} (h : exec i s = .next s') :
    Answers (.command i) s.eng s'.eng := by
  cases i with
  | absorb b => exact execAbsorb_answers h
  | loadm i => exact execLoadm_answers h
  | compress => exact execCompress_answers h
  | nop =>
    unfold exec at h
    refine acceptCommand_answers h fun _ hb => ?_
    cases hb
    exact .ignored _ _
  | init kreq hld =>
    unfold exec at h
    refine acceptCommand_answers h fun _ hb => ?_
    cases hb
    exact .init _ kreq hld
  | finish =>
    unfold exec at h
    refine acceptCommand_answers h fun hl hb => ?_
    cases hb
    exact .finish _ (by simpa [legalIn] using hl)
  | resume =>
    unfold exec at h
    refine acceptCommand_answers h fun hl hb => ?_
    cases hb
    exact .resume _ (by simpa [legalIn] using hl)
  | loadh i =>
    unfold exec at h
    refine acceptCommand_answers h fun hl hb => ?_
    cases hb
    exact .loadh _ i (by simpa [legalIn] using hl)

/-- Everything a raw word can answer (R124, R165, R169). -/
theorem acceptWord_cases {c : Word} {s s' : State} (h : acceptWord c s = .next s') :
    (∃ i, decode c = .command i ∧ exec i s = .next s') ∨ s' = s ∨
    (s.eng.phase ≠ .error ∧ s' = s.raiseError .illegalCommand c) := by
  cases hd : decode c with
  | command i => exact .inl ⟨i, rfl, acceptWord_command hd s ▸ h⟩
  | illegal w =>
    by_cases hp : s.eng.phase = .error
    · rw [acceptWord_illegal_error hd hp] at h
      cases h
      exact .inr (.inl rfl)
    · rw [acceptWord_illegal hd hp] at h
      cases h
      exact .inr (.inr ⟨hp, rfl⟩)

/-- Everything a raw word can make of the engine. -/
theorem acceptWord_answers {c : Word} {s s' : State} (h : acceptWord c s = .next s') :
    Answers (decode c) s.eng s'.eng := by
  obtain ⟨i, hd, h⟩ | rfl | ⟨hp, rfl⟩ := acceptWord_cases h
  · exact hd ▸ exec_answers h
  · exact .ignored _ _
  · exact .raised _ _ .illegalCommand c (by decide) hp

/-- No accepted word touches the host's side of the bus. -/
theorem acceptWord_host {c : Word} {s s' : State} (h : acceptWord c s = .next s') :
    s' = { s with eng := s'.eng } := by
  obtain ⟨i, -, h⟩ | rfl | ⟨-, rfl⟩ := acceptWord_cases h
  · exact exec_host h
  · rfl
  · rfl

end Sys2Proof.Machine
end

section
/-!
PROOF. What a micro-step can do to the engine, said once, case by case (`Moves`).
-/

namespace Sys2Proof.Machine

/-- What the engine can become in one micro-step (R31, R200, R201, R220, R221, R224). -/
inductive Moves : Engine → Engine → Prop
  | pad (e : Engine) (b : Byte) (p : PadState) (hphase : e.phase = .pad)
      (hbyte : padByte e = some (b, p)) (hfill : e.fill.toNat < 64) :
      Moves e { e with
        padst := p
        blk := e.blk.set e.fill.toNat b hfill
        fill := e.fill + 1#7
        phase := if e.fill + 1#7 = 64#7 then .slice else e.phase }
  | slice (e : Engine) (hphase : e.phase = .slice) :
      Moves e { e with W := sliceWords e.blk e.W, t := 16#7, phase := .sched }
  | sched (e : Engine) (hphase : e.phase = .sched) (ht : 16 ≤ e.t.toNat ∧ e.t.toNat < 64)
      (hlast : e.t ≠ 63#7) :
      Moves e { e with W := setScheduleWord e.W e.t.toNat ht, t := e.t + 1#7 }
  | schedLast (e : Engine) (hphase : e.phase = .sched) (ht : 16 ≤ e.t.toNat ∧ e.t.toNat < 64)
      (hlast : e.t = 63#7) :
      Moves e { e with
        W := setScheduleWord e.W e.t.toNat ht, V := e.H, t := 0#7, phase := .round }
  | round (e : Engine) (t1 t2 : Word) (vars : Vector Word 8) (hphase : e.phase = .round)
      (ht : e.t.toNat < 64) (ht1 : t1 = roundT1 e.V Rom.k[e.t.toNat] e.W[e.t.toNat])
      (ht2 : t2 = roundT2 e.V) (hvars : vars = roundVars e.V t1 t2) :
      Moves e { e with
        V := vars
        t1r := t1
        t2r := t2
        records :=
          if e.t < e.kEff then
            e.records.set e.t.toNat
              (roundRecord e.t e.W[e.t.toNat] Rom.k[e.t.toNat] t1 t2 vars) ht
          else e.records
        reccnt := if e.t < e.kEff then e.t + 1#7 else e.reccnt
        t := e.t + 1#7
        phase := if e.t = 63#7 then .final else e.phase }
  | final (e : Engine) (hphase : e.phase = .final) :
      Moves e { e with
        H := addWords e.H e.V
        blkcnt := e.blkcnt + 1#64
        first := false
        fill := 0#7
        t := 0#7
        phase := phaseAfterBlock e.padst e.hold }

theorem padStep_moves {e e' : Engine} (hphase : e.phase = .pad) (h : padStep e = .ok e') :
    Moves e e' := by
  unfold padStep at h
  split at h
  · cases h
  · next b p hbyte =>
    split at h
    · next e₁ he =>
      obtain ⟨hfill, rfl⟩ := Engine.appendByte_eq_some he
      cases h
      exact .pad e b p hphase hbyte hfill
    · cases h

theorem schedStep_moves {e e' : Engine} (hphase : e.phase = .sched) (h : schedStep e = .ok e') :
    Moves e e' := by
  unfold schedStep at h
  split at h
  · next ht =>
    split at h <;> cases h
    · exact .schedLast e hphase ht ‹_›
    · exact .sched e hphase ht ‹_›
  · cases h

theorem roundStep_moves {e e' : Engine} (hphase : e.phase = .round) (h : roundStep e = .ok e') :
    Moves e e' := by
  by_cases ht : e.t.toNat < 64
  · rw [roundStep_of_lt ht] at h
    cases h
    exact .round e _ _ _ hphase ht rfl rfl rfl
  · rw [roundStep, dif_neg ht] at h
    cases h

/-- Everything a micro-step can make of the engine. -/
theorem microStep_moves {e e' : Engine} (h : microStep e = .ok e') : Moves e e' := by
  cases hphase : e.phase with
  | pad => exact padStep_moves hphase (microStep_pad hphase ▸ h)
  | slice =>
    cases microStep_slice hphase ▸ h
    exact .slice e hphase
  | sched => exact schedStep_moves hphase (microStep_sched hphase ▸ h)
  | round => exact roundStep_moves hphase (microStep_round hphase ▸ h)
  | final =>
    cases microStep_final hphase ▸ h
    exact .final e hphase
  | ready | held | done | error =>
    rw [microStep_idle (by rw [hphase]; rfl)] at h
    cases h

end Sys2Proof.Machine
end

section
/-!
PROOF. A step of the machine by its effect on the engine, and what only some steps change: DIN (O34)
and the counters (O45). With the idle engine (O37) and the busy engine's step (O39).
-/

namespace Sys2Proof.Machine

/-! ### A step by its effect on the engine (R91) -/

/-- Everything a step can be that goes through. -/
theorem step_cases {s s' : State} (h : step s = .next s') :
    (s.turn = .reset ∧ s' = platformReset s.takeTurn) ∨
    (s.turn ≠ .reset ∧ ∃ e, microStep s.eng = .ok e ∧ s' = { s.takeTurn with eng := e }) ∨
    (s.turn ≠ .reset ∧ hostTurn s.takeTurn = .next s') := by
  unfold step at h
  obtain ⟨ht, hm⟩ | ⟨ht, -, hm⟩ | ⟨ht, -, hm⟩ | ⟨ht, -, -, hm⟩ := nextMove_cases s <;> rw [hm] at h
  · cases h
    exact .inl ⟨ht, rfl⟩
  · exact .inr (.inl ⟨ht, engineTurn_next h⟩)
  · exact .inr (.inr ⟨ht, h⟩)
  · exact .inr (.inr ⟨by simp [ht], h⟩)

/-- What the host's move can do to the engine: nothing, a DIN write, or an accepted command word. -/
theorem hostTurn_engine_cases {s s' : State} (h : hostTurn s = .next s') :
    s'.eng = s.eng ∨
    (∃ v rest, s.program = .write dinOffset 4 v :: rest ∧ s'.eng = { s.eng with din := v }) ∨
    (∃ c rest, s.program = .write cmdOffset 4 c :: rest ∧ s.eng.phase.busy = false ∧
      Answers (decode c) s.eng s'.eng) := by
  obtain ⟨he, -⟩ | ⟨v, rest, hp, rfl⟩ | ⟨c, rest, hp, hb, ha⟩ := hostTurn_cases h
  · exact .inl he
  · exact .inr (.inl ⟨v, rest, hp, rfl⟩)
  · exact .inr (.inr ⟨c, rest, hp, hb, acceptWord_answers (s := s.complete .done) ha⟩)

/-- What a step can do to the engine: the reset, a micro-step, nothing, a DIN write, or an accepted
command word. -/
theorem step_engine_cases {s s' : State} (h : step s = .next s') :
    (s.turn = .reset ∧ s'.eng = Engine.reset) ∨
    (s.turn ≠ .reset ∧
      (Moves s.eng s'.eng ∨ s'.eng = s.eng ∨
        (∃ v rest, s.program = .write dinOffset 4 v :: rest ∧ s'.eng = { s.eng with din := v }) ∨
        (∃ c rest, s.program = .write cmdOffset 4 c :: rest ∧ s.eng.phase.busy = false ∧
          Answers (decode c) s.eng s'.eng))) := by
  obtain ⟨ht, rfl⟩ | ⟨ht, e, he, rfl⟩ | ⟨ht, h⟩ := step_cases h
  · exact .inl ⟨ht, rfl⟩
  · exact .inr ⟨ht, .inl (microStep_moves he)⟩
  · exact .inr ⟨ht, .inr (hostTurn_engine_cases (s := s.takeTurn) h)⟩

/-! ### DIN (R52) -/

theorem Answers.din_eq {d : Decoded} {e e' : Engine} (h : Answers d e e') : e'.din = e.din := by
  cases h <;> rfl

theorem Moves.din_eq {e e' : Engine} (h : Moves e e') : e'.din = e.din := by
  cases h <;> rfl

/-- The host's write to 0x00C, whatever the engine's phase. -/
theorem hostTurn_writeDin {s : State} {v : Word} {rest : List HostOp}
    (hp : s.program = .write dinOffset 4 v :: rest) :
    hostTurn s = .next { s.complete .done with eng := { s.eng with din := v } } := by
  simp [hostTurn, hp, busWrite, accessAllowed, dinOffset, cmdOffset]

/-! ### L and BLKCNT (R48, R50) -/

theorem Answers.counters {d : Decoded} {e e' : Engine} (h : Answers d e e') :
    ((∃ kreq hld, d = .command (.init kreq hld)) ∧ e'.L = 0#64 ∧ e'.blkcnt = 0#64) ∨
    ((e'.L = e.L ∨ (e'.L = e.L + 1#64 ∧ e.phase = .ready ∧ ∃ b, d = .command (.absorb b))) ∧
      e'.blkcnt = e.blkcnt) := by
  cases h with
  | init _ kreq hld => exact .inl ⟨⟨kreq, hld, rfl⟩, rfl, rfl⟩
  | absorb _ b hphase => exact .inr ⟨.inr ⟨rfl, hphase, b, rfl⟩, rfl⟩
  | ignored | raised | finish | resume | loadh | loadm | compress =>
    exact .inr ⟨.inl rfl, rfl⟩

theorem Moves.counters {e e' : Engine} (h : Moves e e') :
    e'.L = e.L ∧
    (e'.blkcnt = e.blkcnt ∨ (e'.blkcnt = e.blkcnt + 1#64 ∧ e.phase = .final)) := by
  cases h with
  | final hphase => exact ⟨rfl, .inr ⟨rfl, hphase⟩⟩
  | pad | slice | sched | schedLast | round => exact ⟨rfl, .inl rfl⟩

/-! ### A host operation that is no CMD and no DIN write (R84, R86, R88) -/

theorem busWrite_other {off : BitVec 13} (v : Word) (s : State) (hc : off ≠ cmdOffset)
    (hd : off ≠ dinOffset) : busWrite off v s = .next (s.complete .done) := by
  simp [busWrite, hc, hd]

/-- Only a 32-bit write to CMD or DIN reaches the engine. -/
theorem hostTurn_keeps_engine {s : State}
    (hcmd : ∀ c rest, s.program ≠ .write cmdOffset 4 c :: rest)
    (hdin : ∀ v rest, s.program ≠ .write dinOffset 4 v :: rest) :
    ∃ s', hostTurn s = .next s' ∧ s'.eng = s.eng := by
  unfold hostTurn
  split
  · exact ⟨s, rfl, rfl⟩
  · split <;> exact ⟨_, rfl, rfl⟩
  · next off bytes v rest hp =>
    split
    · next ha =>
      obtain ⟨rfl, -⟩ : bytes = 4 ∧ off.toNat % 4 = 0 := by simpa [accessAllowed] using ha
      have hc : off ≠ cmdOffset := fun h => hcmd v rest (h ▸ hp)
      have hd : off ≠ dinOffset := fun h => hdin v rest (h ▸ hp)
      exact ⟨_, busWrite_other v s hc hd, rfl⟩
    · exact ⟨_, rfl, rfl⟩
  · dsimp only
    split <;> exact ⟨_, rfl, rfl⟩

/-! ### A busy engine's own step (R31, R92) -/

/-- A busy engine moves on its own turn, and on the host's when the host is not free. -/
theorem step_of_busy {s : State} (hb : s.eng.phase.busy = true)
    (ht : s.turn = .engine ∨ (s.turn = .host ∧ s.hostFree = false)) :
    step s = engineTurn s.takeTurn := by
  obtain ht | ⟨ht, hf⟩ := ht
  · simp [step, nextMove, ht, hb]
  · simp [step, nextMove, ht, hb, hf]

end Sys2Proof.Machine

namespace Sys2Proof.Claims

open Sys2Proof.Machine

/-- Settles O34: the host's write by the bus rule; commands, micro-steps and steps by their cases. -/
theorem dinIsWrittenByTheBusOnly : Obligations.DinIsWrittenByTheBusOnly := by
  refine ⟨?write, fun _ => rfl, fun _ _ _ h => (exec_answers h).din_eq,
    fun _ _ h => (microStep_moves h).din_eq, ?step⟩
  case write =>
    intro s v rest hm hp
    rw [step_of_hostMoves hm hp, hostTurn_writeDin (s := s.takeTurn) hp, takeTurn_complete hp]
    rfl
  case step =>
    intro s s' h
    obtain ⟨ht, he⟩ | ⟨ht, hm | he | ⟨v, rest, hp, he⟩ | ⟨_, _, -, -, ha⟩⟩ := step_engine_cases h
    · exact .inr (.inl ⟨ht, by rw [he]; rfl⟩)
    · exact .inl hm.din_eq
    · exact .inl (by rw [he])
    · exact .inr (.inr ⟨ht, v, rest, hp, by rw [he]⟩)
    · exact .inl ha.din_eq

/-- Settles O37: an idle engine leaves the step to the host, and the host leaves the engine. -/
theorem idleEngineKeepsItsState : Obligations.IdleEngineKeepsItsState := by
  intro s hi ht hcmd hdin
  rw [step_of_idle ht hi]
  exact hostTurn_keeps_engine (s := s.takeTurn) hcmd hdin

/-- Settles O39: the step is the engine's move, which is the micro-step. -/
theorem stepTakesTheMicroStep : Obligations.StepTakesTheMicroStep := by
  intro s e hb ht he
  have hturn : s.turn = .engine ∨ (s.turn = .host ∧ s.hostFree = false) := by
    obtain ht | ⟨ht, hh | hp⟩ := ht
    · exact .inl ht
    · exact .inr ⟨ht, by simp [State.hostFree, hh]⟩
    · exact .inr ⟨ht, by simp [State.hostFree, hp]⟩
  rw [step_of_busy hb hturn, engineTurn_ok (s := s.takeTurn) he]
  rfl

/-- Settles O45: by the cases of a step; only an accepted ABSORB counts in L and only FINAL in
BLKCNT. -/
theorem countersChangeOnlyAsStated : Obligations.CountersChangeOnlyAsStated := by
  intro s s' h
  obtain ⟨ht, he⟩ | ⟨-, hm | he | ⟨v, rest, -, he⟩ | ⟨c, rest, hp, hb, ha⟩⟩ := step_engine_cases h
  · exact .inl ⟨by rw [he]; rfl, by rw [he]; rfl, .inl ht⟩
  · obtain ⟨hL, hcnt⟩ := hm.counters
    exact .inr ⟨.inl hL, hcnt⟩
  · exact .inr ⟨.inl (by rw [he]), .inl (by rw [he])⟩
  · exact .inr ⟨.inl (by rw [he]), .inl (by rw [he])⟩
  · obtain ⟨⟨kreq, hld, hd⟩, hL, hcnt⟩ | ⟨hL | ⟨hL, hphase, b, hd⟩, hcnt⟩ := ha.counters
    · exact .inl ⟨hL, hcnt, .inr ⟨(Phase.idle_iff _).1 hb, c, kreq, hld, rest, hp, hd⟩⟩
    · exact .inr ⟨.inl hL, .inl hcnt⟩
    · exact .inr ⟨.inr ⟨hL, hphase, c, b, rest, hp, hd⟩, .inl hcnt⟩

end Sys2Proof.Claims
end

section
/-!
PROOF. The invariant `Safety.Inv` (spec/10_state.md R56): it holds after reset (O41), and every answer
to a command word, every micro-step and every step of the machine keeps it (O42).
-/

namespace Sys2Proof.Safety

open Sys2Proof.Machine

/-! ### The shape, phase by phase -/

section Shape

variable {e : Engine}

theorem PhaseShape.ready (h : PhaseShape e) (hp : e.phase = .ready) : ReadyShape e := by
  simpa only [PhaseShape, hp] using h
theorem PhaseShape.held (h : PhaseShape e) (hp : e.phase = .held) : HeldShape e := by
  simpa only [PhaseShape, hp] using h
theorem PhaseShape.done (h : PhaseShape e) (hp : e.phase = .done) : DoneShape e := by
  simpa only [PhaseShape, hp] using h
theorem PhaseShape.pad (h : PhaseShape e) (hp : e.phase = .pad) : PadShape e := by
  simpa only [PhaseShape, hp] using h
theorem PhaseShape.slice (h : PhaseShape e) (hp : e.phase = .slice) : BlockShape e ∧ e.t = 0#7 := by
  simpa only [PhaseShape, hp] using h
theorem PhaseShape.sched (h : PhaseShape e) (hp : e.phase = .sched) :
    BlockShape e ∧ 16 ≤ e.t.toNat ∧ e.t.toNat ≤ 63 := by
  simpa only [PhaseShape, hp] using h
theorem PhaseShape.round (h : PhaseShape e) (hp : e.phase = .round) :
    BlockShape e ∧ e.t.toNat ≤ 63 := by
  simpa only [PhaseShape, hp] using h
theorem PhaseShape.final (h : PhaseShape e) (hp : e.phase = .final) :
    BlockShape e ∧ e.t = 64#7 := by
  simpa only [PhaseShape, hp] using h

/-- What ERROR can stand in for: the idle phase the error was raised in. -/
theorem PhaseShape.idle (h : PhaseShape e) (hb : e.phase.busy = false) :
    ReadyShape e ∨ HeldShape e ∨ DoneShape e := by
  obtain hp | hp | hp | hp := (Phase.idle_iff _).1 hb
  · exact .inl (h.ready hp)
  · exact .inr (.inl (h.held hp))
  · exact .inr (.inr (h.done hp))
  · simpa only [PhaseShape, hp] using h

end Shape

/-! ### Bounded counters -/

theorem toNat_succ_of_le (f : BitVec 7) (h : f.toNat ≤ 64) : (f + 1#7).toNat = f.toNat + 1 := by
  bv_omega

/-! ### Answers to a command word -/

section Commands

variable {e : Engine}

theorem engineInv_reset : EngineInv Engine.reset where
  shape := ⟨by decide, rfl, rfl⟩
  reck_le := by decide
  reccnt_le := by decide
  length_le := by decide
  lbits_eq := by decide
  fill_mod := by decide
  error_set := by decide
  error_off := by decide

theorem EngineInv.raised (h : EngineInv e) (hb : e.phase.busy = false) {code : ErrCode}
    (hcode : code ≠ .none) (c : Word) :
    EngineInv { e with errcode := code, errcmd := c, phase := .error } :=
  { h with
    shape := h.shape.idle hb
    error_set := fun _ => hcode
    error_off := fun hp => absurd rfl hp }

theorem EngineInv.initialise (e : Engine) (kreq : BitVec 8) (hld : Bool) :
    EngineInv (e.initialise kreq hld) where
  shape := ⟨by simp, rfl, rfl⟩
  reck_le := by simp [clampRounds_toNat]
  reccnt_le := by simp
  length_le := by simp
  lbits_eq := by simp
  fill_mod := by simp
  error_set := by simp
  error_off := by simp

/-- A full block after an ABSORB is one of no padding; a block that is not full stays in READY. -/
theorem EngineInv.absorb (h : EngineInv e) (b : Byte) (hp : e.phase = .ready)
    (hL : e.L ≠ Config.maxLength) (hfill : e.fill.toNat < 64) :
    EngineInv { e with
      blk := e.blk.set e.fill.toNat b hfill
      fill := e.fill + 1#7
      L := e.L + 1#64
      phase := if e.fill + 1#7 = 64#7 then .slice else e.phase } := by
  obtain ⟨hle, hpad, ht⟩ := h.shape.ready hp
  have hlen := h.length_le
  have hmod := h.fill_mod hpad
  have hf := toNat_succ_of_le e.fill (by omega)
  have hL1 : (e.L + 1#64).toNat = e.L.toNat + 1 ∧ e.L.toNat < 2 ^ 61 - 1 := by
    unfold Config.maxLength at hL
    bv_omega
  obtain ⟨hL1, hlt⟩ := hL1
  have herr := h.error_off (by simp [hp])
  refine { h with
    shape := ?_
    length_le := by simp only [hL1]; omega
    lbits_eq := fun hne => absurd hpad hne
    fill_mod := fun _ => by simp only [hL1, hf]; omega
    error_set := ?_
    error_off := fun _ => herr }
  · by_cases hfull : e.fill + 1#7 = 64#7
    · rw [if_pos hfull]
      exact ⟨.inr ⟨hfull, .inl hpad⟩, ht⟩
    · rw [if_neg hfull, hp]
      have := mt (fill_succ_eq_iff e.fill).2 hfull
      exact ⟨by simp only [hf]; omega, hpad, ht⟩
  · split <;> simp [hp]

theorem EngineInv.finish (h : EngineInv e) (hp : e.phase = .ready) :
    EngineInv { e with lbits := bitLength e.L, padst := .mark, phase := .pad } := by
  obtain ⟨hle, -, ht⟩ := h.shape.ready hp
  exact { h with
    shape := ⟨hle, nofun, nofun, ht, nofun⟩
    lbits_eq := fun _ => rfl
    fill_mod := nofun
    error_set := nofun
    error_off := fun _ => h.error_off (by simp [hp]) }

/-- HELD holds PADST NONE or ZERO at FILL 0, which READY and PAD go on from. -/
theorem EngineInv.resume (h : EngineInv e) (hp : e.phase = .held) :
    EngineInv { e with phase := if e.padst = .none then .ready else .pad } := by
  obtain ⟨hfill, ht, hpad⟩ := h.shape.held hp
  have herr := h.error_off (by simp [hp])
  refine { h with shape := ?_, error_set := ?_, error_off := fun _ => herr }
  · obtain hpad | hpad := hpad
    · rw [if_pos hpad]
      exact ⟨by simp [hfill], hpad, ht⟩
    · rw [if_neg (by simp [hpad])]
      exact ⟨by simp [hfill], by simp [hpad], by simp [hpad], ht, by simp [hpad, lengthIndex]⟩
  · split <;> nofun

theorem EngineInv.compress (h : EngineInv e) (hp : e.phase = .ready) (hfill : e.fill = 0#7) :
    EngineInv { e with phase := .slice } := by
  obtain ⟨-, hpad, ht⟩ := h.shape.ready hp
  exact { h with
    shape := ⟨.inl ⟨hfill, hpad⟩, ht⟩
    error_set := nofun
    error_off := fun _ => h.error_off (by simp [hp]) }

end Commands

/-- Every answer to a command word in an idle phase keeps the engine's invariant. -/
theorem EngineInv.of_answers {d : Decoded} {e e' : Engine} (h : EngineInv e)
    (hb : e.phase.busy = false) (ha : Answers d e e') : EngineInv e' := by
  cases ha with
  | ignored => exact h
  | raised _ _ code c hcode => exact h.raised hb hcode c
  | init _ kreq hld => exact .initialise e kreq hld
  | absorb _ b hp hL hfill => exact h.absorb b hp hL hfill
  | finish _ hp => exact h.finish hp
  | resume _ hp => exact h.resume hp
  | loadh | loadm => exact { h with }
  | compress _ hp hfill => exact h.compress hp hfill

/-! ### Micro-steps -/

section MicroSteps

variable {e : Engine}

/-- Where a PAD step moves PADST (R200): never to NONE, to LAST only with the block's last byte, with
that byte only to ZERO or LAST, and to LEN j only in front of the place of length byte j. -/
theorem PadShape.next {b : Byte} {p : PadState} (h : PadShape e) (hb : padByte e = some (b, p)) :
    p ≠ .none ∧ (p = .last → e.fill.toNat = 63) ∧
    (e.fill.toNat = 63 → p = .zero ∨ p = .last) ∧
    ∀ j, lengthIndex p = some j → e.fill.toNat + 1 = 56 + j := by
  obtain ⟨-, hnone, hlast, -, hpos⟩ := h
  unfold padByte at hb
  cases hp : e.padst with
  | none => exact absurd hp hnone
  | last => exact absurd hp hlast
  | mark =>
    obtain ⟨-, rfl⟩ : _ ∧ PadState.zero = p := by simpa [hp] using hb
    simp [lengthIndex]
  | zero =>
    simp only [hp] at hb
    split at hb <;> cases hb
    · next hfill => simp [hfill, Config.lengthPosition, lengthIndex]
    · simp [lengthIndex]
  | len1 | len2 | len3 | len4 | len5 | len6 | len7 =>
    have hfill := hpos _ (by rw [hp]; rfl)
    simp only [hp, Option.some.injEq, Prod.mk.injEq] at hb
    obtain ⟨-, rfl⟩ := hb
    simp [hfill, lengthIndex]

theorem EngineInv.pad (h : EngineInv e) (b : Byte) (p : PadState) (hp : e.phase = .pad)
    (hbyte : padByte e = some (b, p)) (hfill : e.fill.toNat < 64) :
    EngineInv { e with
      padst := p
      blk := e.blk.set e.fill.toNat b hfill
      fill := e.fill + 1#7
      phase := if e.fill + 1#7 = 64#7 then .slice else e.phase } := by
  have hshape := h.shape.pad hp
  obtain ⟨hnone, hlast, hend, hpos⟩ := hshape.next hbyte
  obtain ⟨-, hpad, -, ht, -⟩ := hshape
  have hf := toNat_succ_of_le e.fill (by omega)
  have hfull := fill_succ_eq_iff e.fill
  refine { h with
    shape := ?_
    lbits_eq := fun _ => h.lbits_eq hpad
    fill_mod := fun hne => absurd hne hnone
    error_set := ?_
    error_off := fun _ => h.error_off (by simp [hp]) }
  · by_cases h63 : e.fill.toNat = 63
    · rw [if_pos (hfull.2 h63)]
      exact ⟨.inr ⟨hfull.2 h63, .inr (hend h63)⟩, ht⟩
    · rw [if_neg (mt hfull.1 h63), hp]
      exact ⟨by simp only [hf]; omega, hnone, mt hlast h63, ht, by simpa only [hf] using hpos⟩
  · split <;> simp [hp]

theorem EngineInv.slice (h : EngineInv e) (hp : e.phase = .slice) :
    EngineInv { e with W := sliceWords e.blk e.W, t := 16#7, phase := .sched } := by
  obtain ⟨hblock, -⟩ := h.shape.slice hp
  exact { h with
    shape := ⟨hblock, by simp, by simp⟩
    error_set := nofun
    error_off := fun _ => h.error_off (by simp [hp]) }

theorem EngineInv.sched (h : EngineInv e) (hp : e.phase = .sched) (hlast : e.t ≠ 63#7)
    (W : Vector Word 64) : EngineInv { e with W := W, t := e.t + 1#7 } := by
  obtain ⟨hblock, hge, hle⟩ := h.shape.sched hp
  have ht := toNat_succ_of_le e.t (by omega)
  have hne : e.t.toNat ≠ 63 := by bv_omega
  refine { h with shape := ?_ }
  simp only [PhaseShape, hp, ht]
  exact ⟨hblock, by omega, by omega⟩

theorem EngineInv.schedLast (h : EngineInv e) (hp : e.phase = .sched) (W : Vector Word 64) :
    EngineInv { e with W := W, V := e.H, t := 0#7, phase := .round } := by
  obtain ⟨hblock, -, -⟩ := h.shape.sched hp
  exact { h with
    shape := ⟨hblock, by simp⟩
    error_set := nofun
    error_off := fun _ => h.error_off (by simp [hp]) }

/-- A round is recorded below RECK only (R222), so RECCNT stays within it. -/
theorem recorded_le_reck (e : Engine) (ht : e.t.toNat ≤ 64) (h : e.reccnt.toNat ≤ e.reck.toNat) :
    (if e.t < e.kEff then e.t + 1#7 else e.reccnt).toNat ≤ e.reck.toNat := by
  split
  · next hlt =>
    have hfirst : e.first = true := by
      by_contra hf
      exact not_lt_kEff (by simpa using hf) _ hlt
    rw [kEff_of_first hfirst, BitVec.lt_def] at hlt
    rw [toNat_succ_of_le e.t ht]
    omega
  · exact h

theorem EngineInv.round (h : EngineInv e) (hp : e.phase = .round) (V : Vector Word 8)
    (t1 t2 : Word) (records : Vector RoundRecord 64) :
    EngineInv { e with
      V := V
      t1r := t1
      t2r := t2
      records := records
      reccnt := if e.t < e.kEff then e.t + 1#7 else e.reccnt
      t := e.t + 1#7
      phase := if e.t = 63#7 then .final else e.phase } := by
  obtain ⟨hblock, hle⟩ := h.shape.round hp
  have ht := toNat_succ_of_le e.t (by omega)
  refine { h with
    shape := ?_
    reccnt_le := recorded_le_reck e (by omega) h.reccnt_le
    error_set := ?_
    error_off := fun _ => h.error_off (by simp [hp]) }
  · by_cases hlast : e.t = 63#7
    · rw [if_pos hlast]
      exact ⟨hblock, by simp [hlast]⟩
    · rw [if_neg hlast, hp]
      have hne : e.t.toNat ≠ 63 := by bv_omega
      exact ⟨hblock, by simp only [ht]; omega⟩
  · split <;> simp [hp]

/-- The four ways on after a block (R224). -/
theorem phaseAfterBlock_cases (padst : PadState) (hold : Bool) :
    (padst = .last ∧ phaseAfterBlock padst hold = .done) ∨
    (padst ≠ .last ∧ phaseAfterBlock padst hold = .held) ∨
    (padst ≠ .last ∧ padst ≠ .none ∧ phaseAfterBlock padst hold = .pad) ∨
    (padst = .none ∧ phaseAfterBlock padst hold = .ready) := by
  by_cases hlast : padst = .last
  · simp [phaseAfterBlock, hlast]
  · cases hold
    · by_cases hnone : padst = .none <;> simp [phaseAfterBlock, hlast, hnone]
    · simp [phaseAfterBlock, hlast]

theorem phaseAfterBlock_ne_error (padst : PadState) (hold : Bool) :
    phaseAfterBlock padst hold ≠ .error := by
  obtain ⟨-, h⟩ | ⟨-, h⟩ | ⟨-, -, h⟩ | ⟨-, h⟩ := phaseAfterBlock_cases padst hold <;> rw [h] <;> nofun

/-- FINAL empties the block; what PADST holds then is what the chosen phase goes on from (R224). -/
theorem EngineInv.final (h : EngineInv e) (hp : e.phase = .final) (H : Vector Word 8)
    (blkcnt : Dword) :
    EngineInv { e with
      H := H
      blkcnt := blkcnt
      first := false
      fill := 0#7
      t := 0#7
      phase := phaseAfterBlock e.padst e.hold } := by
  obtain ⟨hblock, -⟩ := h.shape.final hp
  have hpad : e.padst = .none ∨ e.padst = .zero ∨ e.padst = .last := by
    obtain ⟨-, hpad⟩ | ⟨-, hpad⟩ := hblock
    · exact .inl hpad
    · exact hpad
  have hfill : e.fill.toNat % 64 = 0 := by
    obtain ⟨hfill, -⟩ | ⟨hfill, -⟩ := hblock <;> simp [hfill]
  have herr := h.error_off (by simp [hp])
  refine { h with
    shape := ?_
    fill_mod := fun hne => by simpa [hfill] using h.fill_mod hne
    error_set := ?_
    error_off := fun _ => herr }
  · obtain ⟨hlast, hph⟩ | ⟨hlast, hph⟩ | ⟨hlast, hnone, hph⟩ | ⟨hnone, hph⟩ :=
      phaseAfterBlock_cases e.padst e.hold <;> rw [hph]
    · exact ⟨rfl, rfl, hlast, rfl⟩
    · exact ⟨rfl, rfl, by simpa [hlast] using hpad⟩
    · obtain hzero : e.padst = .zero := by simpa [hlast, hnone] using hpad
      exact ⟨by simp, hnone, hlast, rfl, by simp [hzero, lengthIndex]⟩
    · exact ⟨by simp, hnone, rfl⟩
  · exact fun herror => absurd herror (phaseAfterBlock_ne_error _ _)

end MicroSteps

/-- Every micro-step keeps the engine's invariant. -/
theorem EngineInv.of_moves {e e' : Engine} (h : EngineInv e) (hm : Moves e e') : EngineInv e' := by
  cases hm with
  | pad b p hp hbyte hfill => exact h.pad b p hp hbyte hfill
  | slice hp => exact h.slice hp
  | sched hp ht hlast => exact h.sched hp hlast _
  | schedLast hp ht => exact h.schedLast hp _
  | round t1 t2 vars hp => exact h.round hp _ _ _ _
  | final hp => exact h.final hp _ _

/-! ### Steps of the machine -/

/-- Every step keeps the engine's invariant. -/
theorem EngineInv.of_step {s s' : State} (h : EngineInv s.eng) (hs : step s = .next s') :
    EngineInv s'.eng := by
  obtain ⟨-, he⟩ | ⟨-, hm | he | ⟨v, _, -, he⟩ | ⟨_, _, -, hb, ha⟩⟩ := step_engine_cases hs
  · exact he ▸ engineInv_reset
  · exact h.of_moves hm
  · exact he ▸ h
  · exact he ▸ { h with }
  · exact h.of_answers hb ha

/-- A port with nothing held. -/
theorem PortInv.of_not_held {s : State} (h : s.held = false) : PortInv s := by
  simp [PortInv, h]

/-- The host's move leaves a held CMD write first in the program, or nothing held. -/
theorem PortInv.of_hostTurn {s s' : State} (h : PortInv s) (hs : hostTurn s = .next s') :
    PortInv s' := by
  obtain ⟨-, rfl | ⟨r, rfl⟩ | ⟨_, r, -, rfl⟩ | ⟨c, rest, hp, -, rfl⟩⟩ | ⟨v, rest, -, rfl⟩ |
    ⟨c, rest, -, -, ha⟩ := hostTurn_cases hs
  · exact h
  · exact .of_not_held rfl
  · exact h
  · exact fun _ => ⟨c, rest, hp⟩
  · exact .of_not_held rfl
  · rw [acceptWord_host ha]
    exact .of_not_held rfl

theorem PortInv.of_step {s s' : State} (h : PortInv s) (hs : step s = .next s') : PortInv s' := by
  obtain ⟨-, rfl⟩ | ⟨-, e, -, rfl⟩ | ⟨-, hs⟩ := step_cases hs
  · exact .of_not_held rfl
  · exact h
  · exact PortInv.of_hostTurn (s := s.takeTurn) h hs

/-- Settles O41: the reset values, and nothing held at the port. -/
theorem resetMeetsTheInvariant : Obligations.ResetMeetsTheInvariant :=
  ⟨engineInv_reset, .of_not_held rfl⟩

/-- Settles O42: the engine's part by the cases of a step's effect on it, the port's by the mover. -/
theorem everyStepKeepsTheInvariant : Obligations.EveryStepKeepsTheInvariant :=
  fun _ _ h hs => ⟨h.engine.of_step hs, h.port.of_step hs⟩

end Sys2Proof.Safety
end

section
/-!
PROOF. The STATUS word, field by field (spec/10_state.md R53): each field of the word is the code or
flag it was assembled from, and the rest is 0. This settles O30.
-/

namespace Sys2Proof.Machine

/-! ### The parts of the word -/

/-- A flag is its bit 0. -/
@[simp] theorem flagWord_getElem (b : Bool) (i : Nat) (hi : i < 32) :
    (flagWord b)[i] = (decide (i = 0) && b) := by
  cases b <;> simp [flagWord, BitVec.getElem_one]

theorem Phase.digestValid_iff (p : Phase) : p.digestValid = true ↔ p = .done := by
  simp [Phase.digestValid]

/-! ### The fields, bit by bit -/

section Fields

variable (e : Engine)

theorem Engine.status_phase : e.status.extractLsb' 0 4 = e.phase.code := by
  ext i hi
  interval_cases i <;> simp [Engine.status]

theorem Engine.status_busy : e.status.getLsbD 4 = e.phase.busy := by
  simp [Engine.status]

theorem Engine.status_digestValid : e.status.getLsbD 5 = e.phase.digestValid := by
  simp [Engine.status]

theorem Engine.status_hold : e.status.getLsbD 6 = e.hold := by
  simp [Engine.status]

theorem Engine.status_first : e.status.getLsbD 7 = e.first := by
  simp [Engine.status]

theorem Engine.status_errcode : e.status.extractLsb' 8 4 = e.errcode.code := by
  ext i hi
  interval_cases i <;> simp [Engine.status]

theorem Engine.status_padst : e.status.extractLsb' 16 4 = e.padst.code := by
  ext i hi
  interval_cases i <;> simp [Engine.status]

/-- The reserved bits 12..15 (R53). -/
theorem Engine.status_reserved_low : e.status.extractLsb' 12 4 = 0#4 := by
  ext i hi
  interval_cases i <;> simp [Engine.status]

/-- The reserved bits 20..31 (R53). -/
theorem Engine.status_reserved_high : e.status.extractLsb' 20 12 = 0#12 := by
  ext i hi
  interval_cases i <;> simp [Engine.status]

end Fields

end Sys2Proof.Machine

namespace Sys2Proof.Claims

open Sys2Proof.Machine

/-- Settles O30: field by field, and the codes of R31, R34 and R51 value by value. -/
theorem statusFields : Obligations.StatusFields := by
  refine ⟨fun e => ⟨rfl, ?phase, ?busy, ?dv, e.status_hold, e.status_first, ?errcode,
    e.status_reserved_low, ?padst, e.status_reserved_high⟩, by decide⟩
  case phase => rw [e.status_phase]; cases e.phase <;> rfl
  case busy => rw [e.status_busy]; exact Phase.busy_iff _
  case dv => rw [e.status_digestValid]; exact Phase.digestValid_iff _
  case errcode => rw [e.status_errcode]; cases e.errcode <;> rfl
  case padst => rw [e.status_padst]; cases e.padst <;> rfl

end Sys2Proof.Claims
end

section
/-!
PROOF. The constant ROMs (spec/10_state.md R40, R41): the first 64 primes as a list, checked link by
link to be consecutive primes, and the root inequalities of each constant against that list. They
settle O59.
-/

namespace Sys2Proof.RomRoots

open Sys2Proof.Machine

/-! ### The first 64 primes -/

/-- The first 64 primes, in order. -/
def primes : List Nat :=
  [2, 3, 5, 7, 11, 13, 17, 19, 23, 29, 31, 37, 41, 43, 47, 53,
   59, 61, 67, 71, 73, 79, 83, 89, 97, 101, 103, 107, 109, 113, 127, 131,
   137, 139, 149, 151, 157, 163, 167, 173, 179, 181, 191, 193, 197, 199, 211, 223,
   227, 229, 233, 239, 241, 251, 257, 263, 269, 271, 277, 281, 283, 293, 307, 311]

/-- `b` is the next prime above `a`: none of the numbers between the two is prime. -/
def NextPrime (a b : Nat) : Prop :=
  a < b ∧ b.Prime ∧ ∀ m ∈ List.range' (a + 1) (b - a - 1), ¬ m.Prime

theorem NextPrime.le_of_prime {a b q : Nat} (h : NextPrime a b) (hq : q.Prime) (haq : a < q) :
    b ≤ q := by
  obtain ⟨-, -, hgap⟩ := h
  by_contra hqb
  exact hgap q (List.mem_range'_1.2 (by omega)) hq

/-- Prime number `t + 1` is the next prime above prime number `t`. -/
theorem nth_prime_succ {t a b : Nat} (ha : Nat.nth Nat.Prime t = a) (h : NextPrime a b) :
    Nat.nth Nat.Prime (t + 1) = b := by
  have hmono := Nat.nth_strictMono Nat.infinite_setOfPred_prime
  apply le_antisymm
  · obtain ⟨hab, hb, -⟩ := h
    obtain ⟨n, rfl⟩ : ∃ n, Nat.nth Nat.Prime n = b := ⟨_, Nat.nth_count hb⟩
    rw [← ha] at hab
    exact hmono.monotone (hmono.lt_iff_lt.1 hab)
  · apply h.le_of_prime (Nat.prime_nth_prime _)
    rw [← ha]
    exact hmono t.lt_succ_self

theorem primes_isChain : primes.IsChain NextPrime := by
  norm_num [primes, NextPrime, List.range']

theorem nth_prime_eq : ∀ (t : Nat) (h : t < primes.length), Nat.nth Nat.Prime t = primes[t]
  | 0, _ => Nat.nth_prime_zero_eq_two
  | t + 1, h =>
    nth_prime_succ (nth_prime_eq t (by omega)) (List.isChain_iff_getElem.1 primes_isChain t h)

/-! ### The roots -/

/-- The cube roots: scaled by 2^32 and rounded down, an integer part below 7 before the constant. -/
theorem k_cubeRoot : ∀ t : Fin 64, ∃ c : Fin 7,
    (c.val * 2 ^ 32 + Rom.k[t].toNat) ^ 3 ≤ (primes[t]'t.isLt) * 2 ^ 96 ∧
    (primes[t]'t.isLt) * 2 ^ 96 < (c.val * 2 ^ 32 + Rom.k[t].toNat + 1) ^ 3 := by
  decide

/-- The square roots: an integer part below 5 before the constant. -/
theorem iv_squareRoot : ∀ i : Fin 8, ∃ c : Fin 5,
    (c.val * 2 ^ 32 + Rom.iv[i].toNat) ^ 2 ≤ primes[i] * 2 ^ 64 ∧
    primes[i] * 2 ^ 64 < (c.val * 2 ^ 32 + Rom.iv[i].toNat + 1) ^ 2 := by
  decide

/-- A 32-bit word is what is left of a number that ends in it. -/
theorem toNat_eq_mod (c : Nat) (w : Word) : w.toNat = (c * 2 ^ 32 + w.toNat) % 2 ^ 32 := by
  have := w.isLt
  omega

/-- Settles O59: the primes by the chain, the roots by evaluation. -/
theorem constantsAreTheRootFractions : Obligations.ConstantsAreTheRootFractions := by
  constructor
  · intro t h
    obtain ⟨c, hle, hlt⟩ := k_cubeRoot ⟨t, h⟩
    rw [nth_prime_eq t h]
    exact ⟨_, hle, hlt, toNat_eq_mod _ _⟩
  · intro i h
    obtain ⟨c, hle, hlt⟩ := iv_squareRoot ⟨i, h⟩
    rw [nth_prime_eq i (h.trans (by decide))]
    exact ⟨_, hle, hlt, toNat_eq_mod _ _⟩

end Sys2Proof.RomRoots
end


section
/-!
PROOF. From the invariant every step answers a next state (spec/20_memory.md R98,
spec/60_exceptions.md R261): a micro-step of a busy engine, an accepted command word, the host's move
and the reset all go through, and the invariant holds again. This settles O43.
-/

namespace Sys2Proof.Safety

open Sys2Proof.Machine

/-! ### The engine's move -/

/-- PADST names a byte in PAD: NONE and LAST are ruled out (R56 (b)). -/
theorem PadShape.padByte_isSome {e : Engine} (h : PadShape e) : ∃ b p, padByte e = some (b, p) := by
  obtain ⟨-, hnone, hlast, -, -⟩ := h
  unfold padByte
  cases hp : e.padst with
  | none => exact absurd hp hnone
  | last => exact absurd hp hlast
  | zero => dsimp only; split <;> exact ⟨_, _, rfl⟩
  | mark | len1 | len2 | len3 | len4 | len5 | len6 | len7 => exact ⟨_, _, rfl⟩

theorem padStep_of_padByte {e : Engine} {b : Byte} {p : PadState}
    (hbyte : padByte e = some (b, p)) (hfill : e.fill.toNat < 64) :
    ∃ e', padStep e = .ok e' := by
  simp [padStep, hbyte, Engine.appendByte_of_lt (e := { e with padst := p }) hfill]

/-- R261: the micro-step of a busy engine goes through. -/
theorem EngineInv.microStep_ok {e : Engine} (h : EngineInv e) (hb : e.phase.busy = true) :
    ∃ e', microStep e = .ok e' := by
  obtain hp | hp | hp | hp | hp := (Phase.busy_iff _).1 hb
  · exact ⟨_, microStep_slice hp⟩
  · obtain ⟨-, ht⟩ := h.shape.sched hp
    have ht : 16 ≤ e.t.toNat ∧ e.t.toNat < 64 := by omega
    rw [microStep_sched hp, schedStep, dif_pos ht]
    split <;> exact ⟨_, rfl⟩
  · obtain ⟨-, ht⟩ := h.shape.round hp
    exact ⟨_, (microStep_round hp).trans (roundStep_of_lt (by omega))⟩
  · exact ⟨_, microStep_final hp⟩
  · have hshape := h.shape.pad hp
    obtain ⟨b, p, hbyte⟩ := hshape.padByte_isSome
    obtain ⟨hfill, -⟩ := hshape
    rw [microStep_pad hp]
    exact padStep_of_padByte hbyte (by omega)

/-! ### An accepted word -/

/-- Acceptance on an idle engine answers a next state when the command's own rule does. -/
theorem acceptCommand_next {i : Instr} {body : State → Host.Outcome State Fault Refusal} {s : State}
    (hb : s.eng.phase.busy = false)
    (hbody : legalIn i s.eng.phase = true → ∃ s', body s = .next s') :
    ∃ s', acceptCommand i body s = .next s' := by
  by_cases hl : legalIn i s.eng.phase = true
  · rw [acceptCommand_legal hb hl]
    exact hbody hl
  · rw [Bool.not_eq_true] at hl
    by_cases he : s.eng.phase = .error
    · exact ⟨s, acceptCommand_error he (he ▸ hl)⟩
    · exact ⟨_, acceptCommand_protocol hb hl he⟩

/-- The byte of an ABSORB in READY has a place in the block (R56 (a)). -/
theorem execAbsorb_next {s : State} (h : EngineInv s.eng) (hb : s.eng.phase.busy = false)
    (b : Byte) : ∃ s', execAbsorb b s = .next s' := by
  refine acceptCommand_next hb fun hl => ?_
  have hready : s.eng.phase = .ready := by simpa [legalIn] using hl
  obtain ⟨hfill, -⟩ := h.shape.ready hready
  split
  · exact ⟨_, rfl⟩
  · rw [Engine.appendByte_of_lt (by omega)]
    exact ⟨_, rfl⟩

/-- A command in an idle phase answers a next state. -/
theorem exec_next {s : State} (h : EngineInv s.eng) (hb : s.eng.phase.busy = false) (i : Instr) :
    ∃ s', exec i s = .next s' := by
  cases i with
  | absorb b => exact execAbsorb_next h hb b
  | loadm | compress =>
    unfold exec
    refine acceptCommand_next hb fun _ => ?_
    split <;> exact ⟨_, rfl⟩
  | nop | init | finish | resume | loadh =>
    unfold exec
    refine acceptCommand_next hb fun _ => ?_
    exact ⟨_, rfl⟩

/-- A raw word in an idle phase answers a next state. -/
theorem acceptWord_next {s : State} (h : EngineInv s.eng) (hb : s.eng.phase.busy = false)
    (c : Word) : ∃ s', acceptWord c s = .next s' := by
  cases hd : decode c with
  | command i =>
    rw [acceptWord_command hd]
    exact exec_next h hb i
  | illegal w =>
    by_cases he : s.eng.phase = .error
    · exact ⟨s, acceptWord_illegal_error hd he⟩
    · exact ⟨_, acceptWord_illegal hd he⟩

/-! ### The host's move and the step -/

/-- A 32-bit write on an idle engine is a command word or completes; a busy engine holds it. -/
theorem busWrite_next {s : State} (h : EngineInv s.eng) (off : BitVec 13) (v : Word) :
    ∃ s', busWrite off v s = .next s' := by
  unfold busWrite
  split
  · split
    · exact ⟨_, rfl⟩
    · next hb => exact acceptWord_next (s := s.complete .done) h (by simpa using hb) v
  · split <;> exact ⟨_, rfl⟩

theorem hostTurn_next {s : State} (h : EngineInv s.eng) : ∃ s', hostTurn s = .next s' := by
  unfold hostTurn
  split
  · exact ⟨_, rfl⟩
  · split <;> exact ⟨_, rfl⟩
  · split
    · exact busWrite_next h _ _
    · exact ⟨_, rfl⟩
  · dsimp only
    split <;> exact ⟨_, rfl⟩

theorem engineTurn_next_of_busy {s : State} (h : EngineInv s.eng) (hb : s.eng.phase.busy = true) :
    ∃ s', engineTurn s = .next s' := by
  obtain ⟨e, he⟩ := h.microStep_ok hb
  exact ⟨_, engineTurn_ok he⟩

/-- Whoever moves, the step answers a next state. -/
theorem step_next {s : State} (h : EngineInv s.eng) : ∃ s', step s = .next s' := by
  unfold step
  obtain ⟨-, hm⟩ | ⟨-, hb, hm⟩ | ⟨-, -, hm⟩ | ⟨-, -, -, hm⟩ := nextMove_cases s <;> rw [hm]
  · exact ⟨_, rfl⟩
  · exact engineTurn_next_of_busy (s := s.takeTurn) h hb
  · exact hostTurn_next (s := s.takeTurn) h
  · exact hostTurn_next (s := s.takeTurn) h

/-! ### Runs -/

/-- A run goes on from its first step. -/
theorem run_succ {s s₁ : State} (n : Nat) (h : step s = .next s₁) :
    Host.Core.run core (n + 1) s = Host.Core.run core n s₁ := by
  have h : core.step s = .next s₁ := h
  simp [Host.Core.run, h]

/-- Settles O43: by induction on the run; the step goes through and keeps the invariant. -/
theorem invariantRunsNeverStop : Obligations.InvariantRunsNeverStop := by
  intro s n h
  induction n generalizing s with
  | zero => exact ⟨s, rfl⟩
  | succ n ih =>
    obtain ⟨s₁, hs⟩ := step_next h.engine
    obtain ⟨s', hrun⟩ := ih s₁ (everyStepKeepsTheInvariant s s₁ h hs)
    exact ⟨s', (run_succ n hs).trans hrun⟩

end Sys2Proof.Safety
end

section
/-!
PROOF. The host's writes and the bus error, on the host's move: a write the engine takes nothing from
(O33), an access the window refuses (O35) and a command word written to an idle engine (O38).
-/

namespace Sys2Proof.Claims

open Sys2Proof.Machine

/-! ### One rule per access (R84, R86, R92) -/

/-- A 32-bit aligned write goes to the window. -/
theorem hostTurn_write {s : State} {off : BitVec 13} {v : Word} {rest : List HostOp}
    (hp : s.program = .write off 4 v :: rest) (ha : off.toNat % 4 = 0) :
    hostTurn s = busWrite off v s := by
  simp [hostTurn, hp, accessAllowed_word ha]

theorem accessAllowed_eq_false {off : BitVec 13} {bytes : Nat}
    (h : bytes ≠ 4 ∨ off.toNat % 4 ≠ 0) : accessAllowed off bytes = false := by
  obtain h | h := h <;> simp [accessAllowed, h]

/-- A refused access completes with a bus error, read or write. -/
theorem hostTurn_refused {s : State} {off : BitVec 13} {bytes : Nat} {v : Word}
    {rest : List HostOp}
    (hp : s.program = .read off bytes :: rest ∨ s.program = .write off bytes v :: rest)
    (h : accessAllowed off bytes = false) : hostTurn s = .next (s.complete .busError) := by
  obtain hp | hp := hp <;> simp [hostTurn, hp, h]

theorem busWrite_cmd_idle {s : State} (c : Word) (hb : s.eng.phase.busy = false) :
    busWrite cmdOffset c s = acceptWord c (s.complete .done) := by
  simp [busWrite, hb]

/-- On an idle engine the step accepts the word of a CMD write, once the write has completed. -/
theorem step_cmdWrite_idle {s : State} {c : Word} {rest : List HostOp} (hr : s.turn ≠ .reset)
    (hi : Idle s) (hp : s.program = .write cmdOffset 4 c :: rest) :
    step s = acceptWord c (afterAccess s rest .done) := by
  calc step s = hostTurn s.takeTurn := step_of_idle hr hi
    _ = busWrite cmdOffset c s.takeTurn := hostTurn_write hp rfl
    _ = acceptWord c (s.takeTurn.complete .done) := busWrite_cmd_idle c hi.not_busy
    _ = acceptWord c (afterAccess s rest .done) := by rw [takeTurn_complete hp]

/-- Settles O33: such a write completes, and the window keeps nothing of it. -/
theorem otherWritesAreIgnored : Obligations.OtherWritesAreIgnored := by
  intro s off v rest hm hp ha hcmd hdin
  calc step s = hostTurn s.takeTurn := step_of_hostMoves hm hp
    _ = busWrite off v s.takeTurn := hostTurn_write hp ha
    _ = .next (s.takeTurn.complete .done) := busWrite_other v _ hcmd hdin
    _ = .next (afterAccess s rest .done) := by rw [takeTurn_complete hp]

/-- Settles O35: the window refuses the access, and a refused access completes with a bus error. -/
theorem busErrorsHaveNoEffect : Obligations.BusErrorsHaveNoEffect := by
  intro s off bytes v rest hm hp hbad
  have hrefused : hostTurn s.takeTurn = .next (s.takeTurn.complete .busError) :=
    hostTurn_refused (s := s.takeTurn) hp (accessAllowed_eq_false hbad)
  obtain hp | hp := hp <;> rw [step_of_hostMoves hm hp, hrefused, takeTurn_complete hp]

/-- Settles O38: the step accepts the word, and an accepted word is its command's meaning. -/
theorem stepRunsTheDecodedCommand : Obligations.StepRunsTheDecodedCommand := by
  intro s c rest i hr hi hp hd
  rw [step_cmdWrite_idle hr hi hp, acceptWord_command hd]

end Sys2Proof.Claims
end

section
/-!
PROOF. The register window, range by range (spec/20_memory.md R81, R82, R83): what each bank of
registers reads, and that a reserved offset reads 0. This settles O28, O29 and O31.
-/

namespace Sys2Proof.Machine

section Window

variable (e : Engine)

/-- The window has every offset below 8 KiB (R80). -/
theorem readWindow_ofNat {o : Nat} (h : o < 0x2000) :
    readWindow e (BitVec.ofNat 13 o) = readWindowAt e o := by
  simp [readWindow, Nat.mod_eq_of_lt h]

/-! ### The banks of registers (R81) -/

theorem readWindow_H (i : Nat) (h : i < 8) :
    readWindow e (BitVec.ofNat 13 (0x040 + 4 * i)) = e.H[i] := by
  rw [readWindow_ofNat e (by omega)]
  simp (disch := omega) only [readWindowAt, if_neg, dif_pos]
  exact getElem_congr_idx (by omega)

theorem readWindow_V (i : Nat) (h : i < 8) :
    readWindow e (BitVec.ofNat 13 (0x060 + 4 * i)) = e.V[i] := by
  rw [readWindow_ofNat e (by omega)]
  simp (disch := omega) only [readWindowAt, if_neg, dif_neg, dif_pos]
  exact getElem_congr_idx (by omega)

theorem readWindow_iv (i : Nat) (h : i < 8) :
    readWindow e (BitVec.ofNat 13 (0x0C0 + 4 * i)) = Rom.iv[i] := by
  rw [readWindow_ofNat e (by omega)]
  simp (disch := omega) only [readWindowAt, if_neg, dif_neg, dif_pos]
  exact getElem_congr_idx (by omega)

theorem readWindow_blk (i : Nat) (h : i < 16) :
    readWindow e (BitVec.ofNat 13 (0x100 + 4 * i)) = blockWord e.blk ⟨i, h⟩ := by
  rw [readWindow_ofNat e (by omega)]
  simp (disch := omega) only [readWindowAt, if_neg, dif_neg, dif_pos]
  exact congrArg _ (Fin.ext (by dsimp only; omega))

theorem readWindow_W (t : Nat) (h : t < 64) :
    readWindow e (BitVec.ofNat 13 (0x200 + 4 * t)) = e.W[t] := by
  rw [readWindow_ofNat e (by omega)]
  simp (disch := omega) only [readWindowAt, if_neg, dif_neg, dif_pos]
  exact getElem_congr_idx (by omega)

theorem readWindow_k (t : Nat) (h : t < 64) :
    readWindow e (BitVec.ofNat 13 (0x300 + 4 * t)) = Rom.k[t] := by
  rw [readWindow_ofNat e (by omega)]
  simp (disch := omega) only [readWindowAt, if_neg, dif_neg, dif_pos]
  exact getElem_congr_idx (by omega)

/-! ### The REC window (R82) -/

/-- Above 0x1000 an offset is entry `(o - 0x1000) / 64`, word `o % 64 / 4`. -/
theorem readWindowAt_records {o : Nat} (hlo : 0x1000 ≤ o) (hhi : o < 0x2000) :
    readWindowAt e o = (e.records[(o - 0x1000) / 64]'(by omega)).word (o % 64 / 4) := by
  simp (disch := omega) only [readWindowAt, if_neg, dif_neg, dif_pos]

theorem readWindow_record (j : Nat) (h : j < 64) (f : Nat) (hf : f < 16) :
    readWindow e (BitVec.ofNat 13 (0x1000 + 64 * j + 4 * f)) = e.records[j].word f := by
  have hentry : (0x1000 + 64 * j + 4 * f - 0x1000) / 64 = j := by omega
  have hword : (0x1000 + 64 * j + 4 * f) % 64 / 4 = f := by omega
  rw [readWindow_ofNat e (by omega), readWindowAt_records e (by omega) (by omega)]
  simp only [hentry, hword]

theorem RoundRecord.word_vars (r : RoundRecord) (f : Nat) (hf : f < 8) :
    r.word (5 + f) = r.vars[f] := by
  rw [Nat.add_comm]
  exact dif_pos hf

/-- Words 13 and up of a record are reserved (R82). -/
theorem RoundRecord.word_reserved (r : RoundRecord) {f : Nat} (hf : 13 ≤ f) : r.word f = 0#32 := by
  obtain ⟨n, rfl⟩ := Nat.exists_eq_add_of_le' (show 5 ≤ f by omega)
  exact dif_neg (by omega)

/-! ### The two halves of a 64-bit register (R81) -/

theorem highHalf_append_lowHalf (x : Dword) : highHalf x ++ lowHalf x = x := by
  rw [highHalf, lowHalf,
    BitVec.extractLsb'_append_extractLsb'_eq_extractLsb' (show 32 = 0 + 32 from rfl),
    BitVec.extractLsb'_eq_self]

/-! ### Reserved offsets (R83) -/

/-- The ranges the map leaves free between its banks. -/
theorem readWindowAt_gap {o : Nat} (h : (0x088 ≤ o ∧ o < 0x0C0) ∨ (0x0E0 ≤ o ∧ o < 0x100) ∨
    (0x140 ≤ o ∧ o < 0x200) ∨ (0x400 ≤ o ∧ o < 0x1000)) : readWindowAt e o = 0#32 := by
  obtain ⟨hlo, hhi⟩ | ⟨hlo, hhi⟩ | ⟨hlo, hhi⟩ | ⟨hlo, hhi⟩ := h <;>
    simp (disch := omega) only [readWindowAt, if_neg, dif_neg, if_pos]

/-- The last three words of every entry of the REC window. -/
theorem readWindowAt_recordTail {o : Nat} (hlo : 0x1000 ≤ o) (hhi : o < 0x2000)
    (htail : 52 ≤ o % 64) : readWindowAt e o = 0#32 := by
  rw [readWindowAt_records e hlo hhi, RoundRecord.word_reserved _ (by omega)]

end Window
end Sys2Proof.Machine

namespace Sys2Proof.Claims

open Sys2Proof.Machine

/-- A 7-bit register reads as its number. -/
theorem toNat_setWidth_word (x : BitVec 7) : (x.setWidth 32).toNat = x.toNat :=
  BitVec.toNat_setWidth_of_le (by decide)

/-- Settles O28: the single registers by the map's row, the banks by their ranges. -/
theorem registerMapReads : Obligations.RegisterMapReads := by
  intro e
  refine ⟨rfl, rfl, rfl, toNat_setWidth_word e.reck, toNat_setWidth_word e.reccnt,
    toNat_setWidth_word e.fill, toNat_setWidth_word e.t, highHalf_append_lowHalf e.L,
    highHalf_append_lowHalf e.blkcnt, highHalf_append_lowHalf e.lbits, rfl, rfl, rfl,
    readWindow_H e, readWindow_V e, readWindow_iv e, ?blk, readWindow_W e, readWindow_k e⟩
  case blk =>
    intro i h
    rw [readWindow_blk e i h, blockWord, be32_eq_append]

/-- Settles O29: entry `j` and word `f` by their offset, and the word by the record's layout. -/
theorem recordWindowReads : Obligations.RecordWindowReads := by
  intro e j h
  refine ⟨readWindow_record e j h 0 (by decide), readWindow_record e j h 1 (by decide),
    readWindow_record e j h 2 (by decide), readWindow_record e j h 3 (by decide),
    readWindow_record e j h 4 (by decide), ?vars, ?reserved⟩
  case vars =>
    intro f hf
    rw [readWindow_record e j h (5 + f) (by omega), RoundRecord.word_vars _ f hf]
  case reserved =>
    intro f hlo hhi
    rw [readWindow_record e j h f (by omega), RoundRecord.word_reserved _ hlo]

/-- Settles O31: a reserved offset is 0x03C, a gap of the map or the tail of a record, and it is
neither CMD nor DIN, so O33 says what a write to it does. -/
theorem reservedOffsetsReadZero : Obligations.ReservedOffsetsReadZero := by
  intro off ha hres
  refine ⟨fun e => ?read, fun s v rest hm hp =>
    otherWritesAreIgnored s off v rest hm hp ha ?cmd ?din⟩
  case read =>
    have hlt := off.isLt
    obtain rfl | hres := hres
    · rfl
    · rw [readWindow]
      by_cases hrec : 0x1000 ≤ off.toNat
      · exact readWindowAt_recordTail e hrec hlt (by omega)
      · exact readWindowAt_gap e (by omega)
  case cmd => rintro rfl; simp at hres
  case din => rintro rfl; simp at hres

end Sys2Proof.Claims
end

section
/-!
PROOF. How long the engine stays busy (spec/70_reset_and_hazards.md R312): a bound on the micro-steps
still to come, which is at most 300 and falls with every micro-step.
-/

namespace Sys2Proof.Safety

open Sys2Proof.Machine

/-! ### The micro-steps still to come -/

/-- The 64 PAD steps and the 114 micro-steps of a second padding block, where one follows the current
block (R204): the length bytes do not fit any more, since the marker would stand on their place or the
zero bytes have passed it. -/
def secondBlockSteps (padst : PadState) (fill : Nat) : Nat :=
  match padst with
  | .mark => if 56 ≤ fill then 178 else 0
  | .zero => if 56 < fill then 178 else 0
  | .none | .len1 | .len2 | .len3 | .len4 | .len5 | .len6 | .len7 | .last => 0

/-- The most micro-steps a busy engine can still take: the rest of the current block, 114 from SLICE
on (R227) and one PAD step for each byte before that, and the second padding block. -/
def stepsLeft (e : Engine) : Nat :=
  match e.phase with
  | .pad   => 178 - e.fill.toNat + secondBlockSteps e.padst e.fill.toNat
  | .slice => 114 + secondBlockSteps e.padst e.fill.toNat
  | .sched => 129 - e.t.toNat + secondBlockSteps e.padst e.fill.toNat
  | .round => 65 - e.t.toNat + secondBlockSteps e.padst e.fill.toNat
  | .final => 1 + secondBlockSteps e.padst e.fill.toNat
  | .ready | .held | .done | .error => 0

theorem secondBlockSteps_le (p : PadState) (f : Nat) : secondBlockSteps p f ≤ 178 := by
  cases p with
  | mark | zero =>
    unfold secondBlockSteps
    dsimp only
    split <;> omega
  | none | len1 | len2 | len3 | len4 | len5 | len6 | len7 | last => exact Nat.zero_le _

/-- A second block follows in PAD only from position 56 on. -/
theorem secondBlockSteps_eq_zero {p : PadState} {f : Nat} (h : f < 56) :
    secondBlockSteps p f = 0 := by
  unfold secondBlockSteps
  split <;> simp <;> omega

/-- R312: the worst case is FINISH with the marker at position 56. -/
theorem EngineInv.stepsLeft_le {e : Engine} (h : EngineInv e) : stepsLeft e ≤ 300 := by
  have hsecond := secondBlockSteps_le e.padst e.fill.toNat
  unfold stepsLeft
  split
  · by_cases hfill : e.fill.toNat < 56
    · rw [secondBlockSteps_eq_zero hfill]
      omega
    · omega
  · omega
  · next hp =>
    obtain ⟨-, ht, -⟩ := h.shape.sched hp
    omega
  all_goals omega

/-- A PAD step does not change whether a second block follows. -/
theorem secondBlockSteps_padByte {e : Engine} {b : Byte} {p : PadState}
    (h : padByte e = some (b, p)) :
    secondBlockSteps p (e.fill.toNat + 1) = secondBlockSteps e.padst e.fill.toNat := by
  unfold padByte at h
  cases hp : e.padst with
  | none | last => simp [hp] at h
  | zero =>
    simp only [hp] at h
    split at h <;> cases h
    · next hfill => simp [secondBlockSteps, hfill, Config.lengthPosition]
    · next hfill =>
      have hne : e.fill.toNat ≠ 56 := fun h56 => hfill (BitVec.eq_of_toNat_eq h56)
      simp only [secondBlockSteps]
      congr 1
      apply propext
      omega
  | mark =>
    obtain ⟨-, rfl⟩ : _ ∧ PadState.zero = p := by simpa [hp] using h
    simp [secondBlockSteps]
  | len1 | len2 | len3 | len4 | len5 | len6 | len7 =>
    simp only [hp, Option.some.injEq, Prod.mk.injEq] at h
    obtain ⟨-, rfl⟩ := h
    rfl

/-! ### Every micro-step leaves fewer -/

/-- A PAD step appends one byte, and in PAD as in SLICE the 114 micro-steps of the block remain. -/
theorem stepsLeft_pad_lt {e : Engine} {b : Byte} {p : PadState} (hp : e.phase = .pad)
    (hbyte : padByte e = some (b, p)) (hfill : e.fill.toNat < 64) :
    stepsLeft { e with
      padst := p
      blk := e.blk.set e.fill.toNat b hfill
      fill := e.fill + 1#7
      phase := if e.fill + 1#7 = 64#7 then .slice else e.phase } < stepsLeft e := by
  have hf := toNat_succ_of_le e.fill (by omega)
  have hsecond := secondBlockSteps_padByte hbyte
  rw [← hf] at hsecond
  by_cases hfull : e.fill + 1#7 = 64#7
  · simp only [stepsLeft, if_pos hfull, hsecond, hp]
    omega
  · simp only [stepsLeft, if_neg hfull, hsecond, hp]
    omega

/-- After FINAL a second padding block remains only where it was counted (R204, R224). -/
theorem EngineInv.stepsLeft_final_lt {e : Engine} (h : EngineInv e) (hp : e.phase = .final) :
    stepsLeft { e with
      H := addWords e.H e.V
      blkcnt := e.blkcnt + 1#64
      first := false
      fill := 0#7
      t := 0#7
      phase := phaseAfterBlock e.padst e.hold } < stepsLeft e := by
  obtain ⟨hblock, -⟩ := h.shape.final hp
  obtain ⟨-, hph⟩ | ⟨-, hph⟩ | ⟨hlast, hnone, hph⟩ | ⟨-, hph⟩ :=
    phaseAfterBlock_cases e.padst e.hold
  · simp [stepsLeft, hp, hph]
  · simp [stepsLeft, hp, hph]
  · obtain ⟨hfill, hzero⟩ : e.fill = 64#7 ∧ e.padst = .zero := by
      simpa [BlockShape, hlast, hnone] using hblock
    rw [hzero] at hph
    simp [stepsLeft, hp, hph, hfill, hzero, secondBlockSteps]
  · simp [stepsLeft, hp, hph]

/-- R312: the bound falls with every micro-step. -/
theorem EngineInv.stepsLeft_lt {e e' : Engine} (h : EngineInv e) (hm : Moves e e') :
    stepsLeft e' < stepsLeft e := by
  cases hm with
  | pad b p hp hbyte hfill => exact stepsLeft_pad_lt hp hbyte hfill
  | slice hp => simp [stepsLeft, hp]
  | sched hp ht hlast =>
    have hsucc := toNat_succ_of_le e.t (by omega)
    simp only [stepsLeft, hp, hsucc]
    omega
  | schedLast hp ht hlast => simp [stepsLeft, hp, hlast]
  | round t1 t2 vars hp ht =>
    have hsucc := toNat_succ_of_le e.t (by omega)
    by_cases hlast : e.t = 63#7
    · simp [stepsLeft, hp, hlast]
    · simp only [stepsLeft, hp, if_neg hlast, hsucc]
      omega
  | final hp => exact h.stepsLeft_final_lt hp

end Sys2Proof.Safety
end

section
/-!
PROOF. The command port (spec/20_memory.md R92): a busy engine holds a CMD write in front of the port
and moves on (O36), so that the write is accepted within 302 steps (O53).
-/

namespace Sys2Proof.Claims

open Sys2Proof.Machine Sys2Proof.Safety

/-! ### A CMD write in front of a busy engine -/

theorem busWrite_cmd_busy {s : State} (c : Word) (hb : s.eng.phase.busy = true) :
    busWrite cmdOffset c s = .next { s with held := true } := by
  simp [busWrite, hb]

/-- The step presents the write, which then stands held, or it is the engine's. -/
theorem step_cmdWrite_busy {s : State} {c : Word} {rest : List HostOp} (hr : s.turn ≠ .reset)
    (hp : s.program = .write cmdOffset 4 c :: rest) (hb : s.eng.phase.busy = true) :
    (s.held = false ∧ step s = .next { s.takeTurn with held := true }) ∨
      step s = engineTurn s.takeTurn := by
  cases ht : s.turn with
  | reset => exact absurd ht hr
  | engine => exact .inr (step_of_busy hb (.inl ht))
  | host =>
    cases hh : s.held with
    | true => exact .inr (step_of_busy hb (.inr ⟨ht, by simp [State.hostFree, hh]⟩))
    | false =>
      refine .inl ⟨rfl, ?_⟩
      calc step s = hostTurn s.takeTurn := step_of_hostFree ht (hostFree_of_cons hh hp)
        _ = busWrite cmdOffset c s.takeTurn := hostTurn_write hp rfl
        _ = .next { s.takeTurn with held := true } := busWrite_cmd_busy c hb

/-- Settles O36: a busy engine's step presents the write or is a micro-step, and an idle engine's
accepts it. -/
theorem commandPortHoldsWhileBusy : Obligations.CommandPortHoldsWhileBusy := by
  refine ⟨?busy, fun s c rest hr hp hi => step_cmdWrite_idle hr hi hp⟩
  intro s s' c rest hr hp hb hs
  obtain ⟨hh, hstep⟩ | hstep := step_cmdWrite_busy hr hp hb
  · cases hs.symm.trans hstep
    exact ⟨rfl, rfl, .inl ⟨rfl, hh, rfl⟩⟩
  · obtain ⟨e, he, rfl⟩ := engineTurn_next (hstep.symm.trans hs)
    exact ⟨rfl, rfl, .inr he⟩

/-! ### The wait at the port ends (R312) -/

/-- A bound on the steps before an idle phase: the engine's, and one to present the write. -/
def portStepsLeft (s : State) : Nat := stepsLeft s.eng + if s.held then 0 else 1

/-- In front of a busy engine the write stays at the port, and the bound falls. -/
theorem step_cmdWrite_waits {s : State} {c : Word} {rest : List HostOp} (h : EngineInv s.eng)
    (hr : s.turn ≠ .reset) (hp : s.program = .write cmdOffset 4 c :: rest)
    (hb : s.eng.phase.busy = true) :
    ∃ s₁, step s = .next s₁ ∧ s₁.program = s.program ∧ s₁.responses = s.responses ∧
      s₁.turns = s.turns.tail ∧ portStepsLeft s₁ < portStepsLeft s := by
  obtain ⟨hh, hs⟩ | hs := step_cmdWrite_busy hr hp hb
  · exact ⟨_, hs, rfl, rfl, rfl, by simp [portStepsLeft, hh]⟩
  · obtain ⟨e, he⟩ := h.microStep_ok hb
    have hlt := h.stepsLeft_lt (microStep_moves he)
    refine ⟨_, hs.trans (engineTurn_ok (s := s.takeTurn) he), rfl, rfl, rfl, ?_⟩
    exact Nat.add_lt_add_right hlt _

/-- On an idle engine the step accepts the write, whatever the word. -/
theorem step_cmdWrite_accepts {s : State} {c : Word} {rest : List HostOp} (h : EngineInv s.eng)
    (hr : s.turn ≠ .reset) (hp : s.program = .write cmdOffset 4 c :: rest) (hi : Idle s) :
    ∃ s', step s = .next s' ∧ s'.program = rest ∧ s'.responses = s.responses ++ [.done] ∧
      s'.held = false := by
  obtain ⟨s', hs⟩ := acceptWord_next (s := afterAccess s rest .done) h hi.not_busy c
  refine ⟨s', (step_cmdWrite_idle hr hi hp).trans hs, ?_⟩
  rw [acceptWord_host hs]
  exact ⟨rfl, rfl, rfl⟩

theorem turn_ne_reset {s : State} (h : NoReset s.turns) : s.turn ≠ .reset := by
  unfold State.turn
  cases ht : s.turns with
  | nil => nofun
  | cons t ts =>
    rintro rfl
    exact h (ht ▸ List.mem_cons_self)

theorem noReset_tail {turns : List Turn} (h : NoReset turns) : NoReset turns.tail :=
  fun hmem => h (List.mem_of_mem_tail hmem)

/-- The write is accepted with the first step that meets an idle engine: by induction on the bound. -/
theorem cmdWrite_accepted_within {k : Nat} {s : State} {c : Word} {rest : List HostOp} (h : Inv s)
    (hn : NoReset s.turns) (hp : s.program = .write cmdOffset 4 c :: rest)
    (hk : portStepsLeft s < k) :
    ∃ n s', n ≤ k ∧ Host.Core.run core n s = .next s' ∧ s'.program = rest ∧
      s'.responses = s.responses ++ [.done] ∧ s'.held = false := by
  induction k generalizing s with
  | zero => omega
  | succ k ih =>
    cases hb : s.eng.phase.busy with
    | true =>
      obtain ⟨s₁, hs, hprog, hresp, hturns, hlt⟩ :=
        step_cmdWrite_waits h.engine (turn_ne_reset hn) hp hb
      obtain ⟨n, s', hle, hrun, hrest, hdone, hheld⟩ :=
        ih (everyStepKeepsTheInvariant s s₁ h hs) (hturns ▸ noReset_tail hn) (hprog.trans hp)
          (by omega)
      exact ⟨n + 1, s', by omega, (run_succ n hs).trans hrun, hrest, hresp ▸ hdone, hheld⟩
    | false =>
      obtain ⟨s', hs, hrest, hdone, hheld⟩ :=
        step_cmdWrite_accepts h.engine (turn_ne_reset hn) hp ((Phase.idle_iff _).1 hb)
      exact ⟨1, s', by omega, run_succ 0 hs, hrest, hdone, hheld⟩

/-- Settles O53: at most 300 micro-steps, the step that presents the write and the one that accepts
it. -/
theorem heldWriteIsAccepted : Obligations.HeldWriteIsAccepted := by
  intro s c rest h hn hp
  have hle : stepsLeft s.eng ≤ 300 := h.engine.stepsLeft_le
  have hport : portStepsLeft s ≤ stepsLeft s.eng + 1 := by
    unfold portStepsLeft
    split <;> omega
  exact cmdWrite_accepted_within h hn hp (by omega)

end Sys2Proof.Claims
end

section
/-!
PROOF. Decoding and encoding (spec/30_encoding.md R121 to R125): a row of the table matches exactly
the well-formed words of its opcode, so at most one row matches a word, and the word is rebuilt from
its row. This settles O1, O2 and O3.
-/

namespace Sys2Proof

/-! ### What a row matches (R121, R123) -/

/-- The opcode byte of a row: the top byte of its pattern (R120, R121). -/
def EncodingRow.opcode (r : EncodingRow) : Byte := r.pattern.extractLsb' 24 8

/-- A word is its opcode byte and its ARG bits (R120). -/
theorem word_eq_iff (x y : Word) :
    x = y ↔ x.extractLsb' 24 8 = y.extractLsb' 24 8 ∧
      x &&& 0x00FFFFFF#32 = y &&& 0x00FFFFFF#32 := by
  refine ⟨by rintro rfl; simp, fun ⟨hop, harg⟩ => BitVec.eq_of_toNat_eq ?_⟩
  have hop := congrArg BitVec.toNat hop
  have harg := congrArg BitVec.toNat harg
  have hmask (n : Nat) : n &&& 16777215 = n % 2 ^ 24 := Nat.and_two_pow_sub_one_eq_mod n 24
  simp only [BitVec.extractLsb'_toNat, BitVec.toNat_and, BitVec.toNat_ofNat,
    Nat.shiftRight_eq_div_pow] at hop harg
  norm_num [hmask] at hop harg
  omega

/-- R121, R123: a row's mask covers the opcode byte and its reserved bits, and its pattern sets no
ARG bit. -/
theorem row_layout : ∀ r ∈ encodingTable,
    r.mask.extractLsb' 24 8 = BitVec.allOnes 8 ∧ r.pattern &&& 0x00FFFFFF#32 = 0#32 ∧
      reservedBits r.opcode.toNat = some (r.mask &&& 0x00FFFFFF#32) := by
  decide

theorem wellFormed_iff_of_reservedBits {c r : Word}
    (h : reservedBits (c.extractLsb' 24 8).toNat = some r) :
    wellFormed c = true ↔ c &&& r = 0#32 := by
  simp only [wellFormed, h, beq_iff_eq]

/-- The two forms of R123: a row matches exactly the well-formed words of its opcode. -/
theorem accepts_iff {r : EncodingRow} (hr : r ∈ encodingTable) (c : Word) :
    r.accepts c = true ↔ wellFormed c = true ∧ c.extractLsb' 24 8 = r.opcode := by
  obtain ⟨hmask, hpat, hres⟩ := row_layout r hr
  calc r.accepts c = true ↔ c &&& r.mask = r.pattern := by simp [EncodingRow.accepts]
    _ ↔ c.extractLsb' 24 8 = r.opcode ∧ c &&& (r.mask &&& 0x00FFFFFF#32) = 0#32 := by
      rw [word_eq_iff, BitVec.extractLsb'_and, hmask, BitVec.and_allOnes, hpat, BitVec.and_assoc,
        EncodingRow.opcode]
    _ ↔ c.extractLsb' 24 8 = r.opcode ∧ wellFormed c = true :=
      and_congr_right fun hop => (wellFormed_iff_of_reservedBits (hop ▸ hres)).symm
    _ ↔ wellFormed c = true ∧ c.extractLsb' 24 8 = r.opcode := and_comm

/-! ### How many rows match a word (R123, R125) -/

theorem opcodes_nodup : (encodingTable.map EncodingRow.opcode).Nodup := by decide

theorem opcode_mem_of_reservedBits : ∀ op : Byte, (reservedBits op.toNat).isSome = true →
    op ∈ encodingTable.map EncodingRow.opcode := by
  decide

theorem opcode_mem {c : Word} (h : wellFormed c = true) :
    c.extractLsb' 24 8 ∈ encodingTable.map EncodingRow.opcode := by
  refine opcode_mem_of_reservedBits _ ?_
  unfold wellFormed at h
  split at h
  next hres => exact Option.isSome_of_eq_some hres
  next => cases h

/-- A well-formed word has exactly the row of its opcode, any other word none. -/
theorem length_filter_accepts (c : Word) :
    (encodingTable.filter (·.accepts c)).length = if wellFormed c then 1 else 0 := by
  cases hw : wellFormed c with
  | false =>
    have hnone : ∀ r ∈ encodingTable, ¬ r.accepts c = true := by
      intro r hr hacc
      simp [((accepts_iff hr c).1 hacc).1] at hw
    rw [List.filter_eq_nil_iff.2 hnone]
    rfl
  | true =>
    have hrow : ∀ r ∈ encodingTable, r.accepts c = (r.opcode == c.extractLsb' 24 8) := by
      intro r hr
      rw [Bool.eq_iff_iff, accepts_iff hr c, beq_iff_eq, eq_comm (a := r.opcode)]
      exact and_iff_right hw
    calc (encodingTable.filter (·.accepts c)).length
        = (encodingTable.filter fun r => r.opcode == c.extractLsb' 24 8).length := by
          rw [List.filter_congr hrow]
      _ = (encodingTable.map EncodingRow.opcode).count (c.extractLsb' 24 8) := by
          rw [← List.countP_eq_length_filter, List.count_eq_countP, List.countP_map]
          rfl
      _ = 1 := List.count_eq_one_of_mem opcodes_nodup (opcode_mem hw)

/-! ### The word a row rebuilds (R122) -/

/-- An operand field at the bottom of a word, zero-extended, is the word under the field's mask. -/
theorem setWidth_extractLsb'_zero {n : Nat} {m : Word} (c : Word) (hm : m.toNat = 2 ^ n - 1) :
    (c.extractLsb' 0 n).setWidth 32 = c &&& m := by
  apply BitVec.eq_of_toNat_eq
  rw [BitVec.toNat_setWidth, BitVec.extractLsb'_toNat, BitVec.toNat_and, hm,
    Nat.and_two_pow_sub_one_eq_mod, Nat.shiftRight_zero]
  exact Nat.mod_eq_of_lt ((Nat.mod_le _ _).trans_lt c.isLt)

/-- INIT's two fields (R122): HLD is bit 8 and KREQ the bits below it. -/
theorem init_operands (c : Word) :
    (if c.getLsbD 8 then 0x100#32 else 0#32) ||| (c.extractLsb' 0 8).setWidth 32 =
      c &&& 0x1FF#32 := by
  have hhld : c &&& 0x100#32 = if c.getLsbD 8 then 0x100#32 else 0#32 := BitVec.and_twoPow c 8
  rw [← hhld, setWidth_extractLsb'_zero (m := 0xFF#32) c rfl, ← BitVec.and_or_distrib_left]
  rfl

/-- A row's command has the row's pattern and the word's operand bits, all the mask leaves free. -/
theorem encode_build (c : Word) : ∀ r ∈ encodingTable,
    encode (r.build c) = r.pattern ||| (c &&& ~~~r.mask) := by
  simp only [encodingTable, List.forall_mem_cons]
  refine ⟨?nop, ?init, ?absorb, ?finish, ?resume, ?loadh, ?loadm, ?compress, List.forall_mem_nil _⟩
  case nop | finish | resume | compress => simp [encode]
  case init => exact (BitVec.or_assoc ..).trans (congrArg (0x01000000#32 ||| ·) (init_operands c))
  case absorb =>
    exact congrArg (0x02000000#32 ||| ·) (setWidth_extractLsb'_zero (m := 0xFF#32) c rfl)
  case loadh =>
    exact congrArg (0x05000000#32 ||| ·) ((BitVec.ofNat_toNat ..).trans
      (setWidth_extractLsb'_zero (m := 0x7#32) c rfl))
  case loadm =>
    exact congrArg (0x06000000#32 ||| ·) ((BitVec.ofNat_toNat ..).trans
      (setWidth_extractLsb'_zero (m := 0xF#32) c rfl))

/-- A row that matches a word rebuilds it: the pattern is the word's masked part. -/
theorem encode_build_of_accepts {r : EncodingRow} {c : Word} (hr : r ∈ encodingTable)
    (h : r.accepts c = true) : encode (r.build c) = c := by
  have hpat : c &&& r.mask = r.pattern := by simpa [EncodingRow.accepts] using h
  rw [encode_build c r hr, ← hpat, ← BitVec.and_or_distrib_left, BitVec.or_not_self,
    BitVec.and_allOnes]

/-! ### Decoding -/

/-- A command's word decodes to it: one word without operands, and at most 512 with them. -/
theorem decode_encode (i : Instr) : decode (encode i) = .command i := by
  cases i with
  | nop | finish | resume | compress => decide
  | init kreq hld => revert kreq hld; decide
  | absorb byte => revert byte; decide
  | loadh hidx => revert hidx; decide
  | loadm midx => revert midx; decide

/-- A word that decodes to a command does so by a row that matches it. -/
theorem row_of_decode {c : Word} {i : Instr} (h : decode c = .command i) :
    ∃ r ∈ encodingTable, r.accepts c = true ∧ r.build c = i := by
  unfold decode at h
  split at h
  next r hfind =>
    cases h
    have hacc : r.accepts c = true := List.find?_some (p := (EncodingRow.accepts · c)) hfind
    exact ⟨r, List.mem_of_find?_eq_some hfind, hacc, rfl⟩
  next => split at h <;> cases h

theorem encode_of_decode {c : Word} {i : Instr} (h : decode c = .command i) : encode i = c := by
  obtain ⟨r, hr, hacc, rfl⟩ := row_of_decode h
  exact encode_build_of_accepts hr hacc

theorem decode_of_wellFormed {c : Word} (h : wellFormed c = true) :
    ∃ i, decode c = .command i := by
  cases hfind : encodingTable.find? fun r => r.accepts c with
  | some r => exact ⟨r.build c, by simp [decode, hfind]⟩
  | none =>
    have hlen := length_filter_accepts c
    rw [List.filter_eq_nil_iff.2 (List.find?_eq_none.1 hfind), h] at hlen
    cases hlen

theorem wellFormed_of_decode {c : Word} {i : Instr} (h : decode c = .command i) :
    wellFormed c = true := by
  obtain ⟨r, hr, hacc, -⟩ := row_of_decode h
  exact ((accepts_iff hr c).1 hacc).1

end Sys2Proof

namespace Sys2Proof.Claims

/-- Settles O1: a word that decodes is rebuilt from its row, and a command's word finds its row. -/
theorem decodeAndEncodeAgree : Obligations.DecodeAndEncodeAgree := by
  intro i c
  constructor
  · intro h
    exact (encode_of_decode h).symm
  · rintro rfl
    exact decode_encode i

/-- Settles O2: the number of matching rows is 1 for a well-formed word and 0 otherwise. -/
theorem wellFormedIffExactlyOneRowMatches : Obligations.WellFormedIffExactlyOneRowMatches := by
  intro c
  have hlen : (encodingTable.filter fun r => c &&& r.mask == r.pattern).length =
      if wellFormed c then 1 else 0 := length_filter_accepts c
  rw [hlen]
  refine ⟨by cases wellFormed c <;> simp, by split <;> decide, decode_of_wellFormed,
    fun ⟨_, h⟩ => wellFormed_of_decode h⟩

/-- Settles O3: each word by evaluating the decoder. -/
theorem writtenOutWordsDecode : Obligations.WrittenOutWordsDecode := by
  unfold Obligations.WrittenOutWordsDecode
  decide

end Sys2Proof.Claims
end

section
/-!
PROOF. `loadblock` (spec/30_encoding.md R128): two steps for each word, a DIN write and a LOADM, and
each word ends in its own place of the block buffer. This settles O58.
-/

namespace Sys2Proof.Machine

/-! ### The word LOADM stores (R181, R89) -/

/-- A word's four bytes, most significant first, are the word (R8). -/
theorem be32_byteOf (x : Word) : be32 (byteOf x 0) (byteOf x 1) (byteOf x 2) (byteOf x 3) = x := by
  rw [be32_eq_append]
  calc byteOf x 0 ++ byteOf x 1 ++ byteOf x 2 ++ byteOf x 3
      = x.extractLsb' 16 16 ++ byteOf x 2 ++ byteOf x 3 := by
        rw [byteOf, byteOf, BitVec.extractLsb'_append_extractLsb'_eq_extractLsb' (by decide)]
    _ = x.extractLsb' 8 24 ++ byteOf x 3 := by
        rw [byteOf, BitVec.extractLsb'_append_extractLsb'_eq_extractLsb' (by decide)]
    _ = x := by
        rw [byteOf, BitVec.extractLsb'_append_extractLsb'_eq_extractLsb' (by decide),
          BitVec.extractLsb'_eq_self]

/-- LOADM's store in the terms of BLKW (R39): the stored word, and the others as they were. -/
theorem blockWord_putBlockWord (blk : Vector Byte 64) (i j : Fin 16) (x : Word) :
    blockWord (putBlockWord blk i x) j = if j = i then x else blockWord blk j := by
  unfold blockWord
  split
  next h =>
    subst h
    rw [putBlockWord_of_eq _ _ _ _ _ (by omega), putBlockWord_of_eq _ _ _ _ _ (by omega),
      putBlockWord_of_eq _ _ _ _ _ (by omega), putBlockWord_of_eq _ _ _ _ _ (by omega)]
    simp only [Nat.mul_add_mod, Nat.mul_mod_right]
    exact be32_byteOf x
  next h =>
    have hne : j.val ≠ i.val := fun hv => h (Fin.ext hv)
    simp (disch := omega) only [putBlockWord_of_ne]

/-! ### Loading words one by one -/

/-- The engine after `wr DIN, w[i]` and `LOADM i` (R128). -/
def Engine.loadWord (w : Vector Word 16) (e : Engine) (i : Fin 16) : Engine :=
  { e with blk := putBlockWord e.blk i w[i], din := w[i] }

/-- The two host operations `loadblock` writes for the word `i` (R128). -/
def loadWordOps (w : Vector Word 16) (i : Fin 16) : List HostOp :=
  [HostOp.wr dinOffset w[i], HostOp.issue (.loadm i)]

/-- Loading words changes nothing of the engine but BLK and DIN. -/
theorem foldl_loadWord_frame (w : Vector Word 16) (l : List (Fin 16)) (e : Engine) :
    l.foldl (Engine.loadWord w) e =
      { e with blk := (l.foldl (Engine.loadWord w) e).blk,
               din := (l.foldl (Engine.loadWord w) e).din } := by
  induction l generalizing e with
  | nil => rfl
  | cons i l ih => exact ih (e.loadWord w i)

/-- Whatever the order, a word of the buffer is the given one once its number has come. -/
theorem blockWord_foldl_loadWord (w : Vector Word 16) (l : List (Fin 16)) (e : Engine)
    (j : Fin 16) :
    blockWord (l.foldl (Engine.loadWord w) e).blk j =
      if j ∈ l then w[j] else blockWord e.blk j := by
  induction l generalizing e with
  | nil => simp
  | cons i l ih =>
    rw [List.foldl_cons, ih, Engine.loadWord, blockWord_putBlockWord]
    by_cases hl : j ∈ l
    · simp [hl]
    · by_cases hi : j = i <;> simp [hl, hi]

/-- LOADM in READY with an empty buffer (R181). -/
theorem exec_loadm_ready {s : State} (i : Fin 16) (hphase : s.eng.phase = .ready)
    (hfill : s.eng.fill = 0#7) : exec (.loadm i) s =
      .next { s with eng := { s.eng with blk := putBlockWord s.eng.blk i s.eng.din } } := by
  rw [exec, execLoadm, acceptCommand_legal (by rw [hphase]; rfl) (by rw [hphase]; rfl),
    if_pos hfill]

end Sys2Proof.Machine

namespace Sys2Proof.Claims

open Sys2Proof.Machine Sys2Proof.Safety

/-! ### The run of `loadblock` -/

/-- `wr DIN, v` on an idle engine (R52). -/
theorem step_writeDin {s : State} {v : Word} {rest : List HostOp} (hi : Idle s)
    (hn : NoReset s.turns) (hp : s.program = HostOp.wr dinOffset v :: rest) :
    ∃ s₁, step s = .next s₁ ∧ s₁.eng = { s.eng with din := v } ∧ s₁.program = rest ∧
      NoReset s₁.turns :=
  ⟨_, dinIsWrittenByTheBusOnly.1 s v rest ⟨turn_ne_reset hn, .inl hi⟩ hp, rfl, rfl,
    noReset_tail hn⟩

/-- `loadm i` in READY with an empty buffer (R181). -/
theorem step_issueLoadm {s : State} {i : Fin 16} {rest : List HostOp}
    (hphase : s.eng.phase = .ready) (hfill : s.eng.fill = 0#7) (hn : NoReset s.turns)
    (hp : s.program = HostOp.issue (.loadm i) :: rest) :
    ∃ s₁, step s = .next s₁ ∧
      s₁.eng = { s.eng with blk := putBlockWord s.eng.blk i s.eng.din } ∧ s₁.program = rest ∧
      NoReset s₁.turns := by
  have hexec := stepRunsTheDecodedCommand s _ rest _ (turn_ne_reset hn) (.inl hphase) hp
    (decode_encode (.loadm i))
  exact ⟨_, hexec.trans (exec_loadm_ready i hphase hfill), rfl, rfl, noReset_tail hn⟩

/-- Two steps load a word. -/
theorem run_loadWord {s : State} {w : Vector Word 16} {i : Fin 16} {rest : List HostOp} (n : Nat)
    (hphase : s.eng.phase = .ready) (hfill : s.eng.fill = 0#7) (hn : NoReset s.turns)
    (hp : s.program = loadWordOps w i ++ rest) :
    ∃ s₂, Host.Core.run core (n + 2) s = Host.Core.run core n s₂ ∧ s₂.eng = s.eng.loadWord w i ∧
      s₂.program = rest ∧ NoReset s₂.turns := by
  obtain ⟨s₁, hs₁, he₁, hp₁, hn₁⟩ := step_writeDin (.inl hphase) hn hp
  obtain ⟨s₂, hs₂, he₂, hp₂, hn₂⟩ :=
    step_issueLoadm (by rw [he₁]; exact hphase) (by rw [he₁]; exact hfill) hn₁ hp₁
  rw [he₁] at he₂
  exact ⟨s₂, (run_succ (n + 1) hs₁).trans (run_succ n hs₂), he₂, hp₂, hn₂⟩

/-- Two steps for each word. -/
theorem run_loadWords {s : State} {w : Vector Word 16} {l : List (Fin 16)}
    (hphase : s.eng.phase = .ready) (hfill : s.eng.fill = 0#7) (hn : NoReset s.turns)
    (hp : s.program = l.flatMap (loadWordOps w)) :
    ∃ s', Host.Core.run core (2 * l.length) s = .next s' ∧
      s'.eng = l.foldl (Engine.loadWord w) s.eng := by
  induction l generalizing s with
  | nil => exact ⟨s, rfl, rfl⟩
  | cons i l ih =>
    obtain ⟨s₁, hrun, heng, hprog, hn₁⟩ := run_loadWord (2 * l.length) hphase hfill hn hp
    obtain ⟨s', hrun', heng'⟩ :=
      ih (by rw [heng]; exact hphase) (by rw [heng]; exact hfill) hn₁ hprog
    rw [heng] at heng'
    exact ⟨s', hrun.trans hrun', heng'⟩

/-- Settles O58: the words are loaded in order, two steps each, and each ends in its own place. -/
theorem loadblockFillsTheBlockBuffer : Obligations.LoadblockFillsTheBlockBuffer := by
  intro s w hphase hfill hn hp
  obtain ⟨s', hrun, heng⟩ := run_loadWords (l := List.finRange 16) hphase hfill hn hp
  refine ⟨s', hrun, ?frame, fun i => ?word⟩
  case frame =>
    have hdin : ((List.finRange 16).foldl (Engine.loadWord w) s.eng).din = w[15] := rfl
    rw [heng, ← hdin]
    exact foldl_loadWord_frame w _ _
  case word =>
    rw [readWindow_blk s'.eng i.val i.isLt, heng, blockWord_foldl_loadWord,
      if_pos (List.mem_finRange i)]

end Sys2Proof.Claims
end

section
/-!
PROOF. The datapath functions bit by bit and the sums as integers (spec/40_primitives.md R151 to
R159): one rule per primitive, from which the composed functions follow. This settles O24 to O27.
-/

namespace Sys2Proof.Machine

/-! ### Rotation and shift (R152, R153) -/

/-- An amount in range needs no reduction, and the two halves of the word are the library's. -/
theorem rotr_eq_rotateRight (x : Word) {n : Nat} (hn : n < 32) : rotr x n = x.rotateRight n :=
  (BitVec.rotateRight_eq_rotateRightAux_of_lt hn).symm

/-- R152. -/
theorem rotr_getLsbD (x : Word) {n i : Nat} (hn : n < 32) (hi : i < 32) :
    (rotr x n).getLsbD i = x.getLsbD ((i + n) % 32) := by
  rw [rotr_eq_rotateRight x hn, BitVec.getLsbD_rotateRight_of_lt hn]
  by_cases hin : i < 32 - n
  case pos =>
    have hmod : (i + n) % 32 = n + i := by omega
    simp [hin, hmod]
  case neg =>
    have hmod : (i + n) % 32 = i - (32 - n) := by omega
    simp [hin, hi, hmod]

/-- R153; a bit above 31 of a word reads false. -/
theorem shr_getLsbD (x : Word) (n i : Nat) :
    (shr x n).getLsbD i = x.getLsbD (i + n) := by
  rw [shr, BitVec.getLsbD_ushiftRight, Nat.add_comm]

/-! ### Selection and majority (R154, R155) -/

theorem ch_getLsbD (x y z : Word) {i : Nat} (hi : i < 32) :
    (ch x y z).getLsbD i = if x.getLsbD i then y.getLsbD i else z.getLsbD i := by
  simp only [ch, BitVec.getLsbD_xor, BitVec.getLsbD_and, BitVec.getLsbD_not, hi, decide_true,
    Bool.true_and]
  cases x.getLsbD i
  case false => simp
  case true => simp

/-- The parity of the three pairwise conjunctions is the majority. -/
theorem xor_pairwise_and_iff (a b c : Bool) :
    (((a && b) ^^ (a && c)) ^^ (b && c)) = true ↔ 2 ≤ [a, b, c].count true := by
  revert a b c
  decide

theorem maj_getLsbD (x y z : Word) (i : Nat) :
    (maj x y z).getLsbD i = true ↔ 2 ≤ [x.getLsbD i, y.getLsbD i, z.getLsbD i].count true := by
  rw [← xor_pairwise_and_iff]
  simp only [maj, BitVec.getLsbD_xor, BitVec.getLsbD_and]

/-! ### Sums (R151) -/

theorem add32_toNat (x y : Word) : (add32 x y).toNat = (x.toNat + y.toNat) % 2 ^ 32 :=
  BitVec.toNat_add x y

/-- Every summand but the last is reduced again, which changes nothing (R151, R220). -/
theorem scheduleWord_toNat (w2 w7 w15 w16 : Word) : (scheduleWord w2 w7 w15 w16).toNat =
    ((ssig1 w2).toNat + w7.toNat + (ssig0 w15).toNat + w16.toNat) % 2 ^ 32 := by
  simp only [scheduleWord, add32_toNat, Nat.mod_add_mod]

/-- The five-term sum likewise (R151, R221). -/
theorem roundT1_toNat (v : Vector Word 8) (k w : Word) : (roundT1 v k w).toNat =
    (v[7].toNat + (bsig1 v[4]).toNat + (ch v[4] v[5] v[6]).toNat + k.toNat + w.toNat) % 2 ^ 32 := by
  simp only [roundT1, add32_toNat, Nat.mod_add_mod]

end Sys2Proof.Machine

namespace Sys2Proof.Claims

open Sys2Proof.Machine

/-- Settles O24: the rotation's rule, and the shift's with the bits above 31 false. -/
theorem rotateAndShiftBits : Obligations.RotateAndShiftBits := by
  intro x n i hn hi
  refine ⟨rotr_getLsbD x hn hi, ?shift⟩
  rw [shr_getLsbD]
  split
  next => rfl
  next hout => exact BitVec.getLsbD_of_ge x (i + n) (by omega)

/-- Settles O25: by the rules of `ch` and `maj` for one bit. -/
theorem chooseAndMajorityBits : Obligations.ChooseAndMajorityBits :=
  fun x y z i hi => ⟨ch_getLsbD x y z hi, maj_getLsbD x y z i⟩

/-- Settles O26: each component by its rotation or its shift. -/
theorem sigmaFunctionBits : Obligations.SigmaFunctionBits := by
  intro x i hi
  refine ⟨?bsig0, ?bsig1, ?ssig0, ?ssig1⟩
  case bsig0 => simp (disch := omega) only [bsig0, BitVec.getLsbD_xor, rotr_getLsbD]
  case bsig1 => simp (disch := omega) only [bsig1, BitVec.getLsbD_xor, rotr_getLsbD]
  case ssig0 => simp (disch := omega) only [ssig0, BitVec.getLsbD_xor, rotr_getLsbD, shr_getLsbD]
  case ssig1 => simp (disch := omega) only [ssig1, BitVec.getLsbD_xor, rotr_getLsbD, shr_getLsbD]

/-- Settles O27: the two-word sum's rule, and the longer sums reduced once. -/
theorem sumsAreReducedModulo32Bits : Obligations.SumsAreReducedModulo32Bits :=
  ⟨add32_toNat, scheduleWord_toNat, roundT1_toNat⟩

end Sys2Proof.Claims
end

section
/-!
PROOF. The commands' rules (spec/41_commands.md R165 to R182): acceptance of a command and of a raw
word, one equation per command and outcome, which cells of the legality table R166 execute, and what
each command other than INIT leaves unchanged.
-/

namespace Sys2Proof.Claims

open Sys2Proof.Machine

/-! ### Phases, words and error entry -/

theorem Open.idle {s : State} (h : Open s) : Idle s := by
  obtain h | h | h := h
  · exact .inl h
  · exact .inr (.inl h)
  · exact .inr (.inr (.inl h))

theorem Open.phase_ne_error {s : State} (h : Open s) : s.eng.phase ≠ .error := by
  obtain h | h | h := h <;> simp [h]

theorem errorState_eq_raiseError (s : State) (code : ErrCode) (c : Word) :
    errorState s code c = s.raiseError code c := rfl

theorem initialised_eq_initialise (e : Engine) (kreq : BitVec 8) (hld : Bool) :
    initialised (clampRounds kreq) hld e.din = e.initialise kreq hld := rfl

theorem hasWord_encode (i : Instr) : HasWord i (encode i) := ⟨rfl, decode_encode i⟩

/-- HLD is bit 8 of INIT's word (R122), written as a shift. -/
theorem encode_init (kreq : BitVec 8) (hld : Bool) : encode (.init kreq hld) =
    0x01000000#32 ||| ((if hld then 1#32 else 0#32) <<< 8) ||| kreq.setWidth 32 := by
  cases hld <;> rfl

end Sys2Proof.Claims

namespace Sys2Proof.Machine

open Sys2Proof.Claims

/-! ### Acceptance of a command (R165, R166, R169) -/

/-- Acceptance stands around every command's own rule. -/
theorem exec_eq_acceptCommand (i : Instr) : ∃ body, ∀ s, exec i s = acceptCommand i body s := by
  cases i <;> exact ⟨_, fun _ => rfl⟩

/-- In a named idle phase where the command is legal its own rule runs. -/
theorem acceptCommand_of_phase {i : Instr} {body : State → Host.Outcome State Fault Refusal}
    {s : State} {p : Phase} (hp : s.eng.phase = p) (hb : p.busy = false)
    (hl : legalIn i p = true) : acceptCommand i body s = body s := by
  subst hp
  exact acceptCommand_legal hb hl

theorem exec_protocol {i : Instr} {s : State} (ho : Open s)
    (hl : legalIn i s.eng.phase = false) :
    exec i s = .next (s.raiseError .protocolError (encode i)) := by
  obtain ⟨body, hexec⟩ := exec_eq_acceptCommand i
  exact (hexec s).trans (acceptCommand_protocol ho.idle.not_busy hl ho.phase_ne_error)

/-- INIT is the only command legal in ERROR. -/
theorem legalIn_error_eq_false {i : Instr} (hi : ∀ kreq hld, i ≠ .init kreq hld) :
    legalIn i .error = false := by
  cases i with
  | init kreq hld => exact absurd rfl (hi kreq hld)
  | _ => rfl

theorem exec_error {i : Instr} {s : State} (he : s.eng.phase = .error)
    (hi : ∀ kreq hld, i ≠ .init kreq hld) : exec i s = .next s := by
  obtain ⟨body, hexec⟩ := exec_eq_acceptCommand i
  exact (hexec s).trans (acceptCommand_error he (legalIn_error_eq_false hi))

theorem protocolErrorOutsideReady {i : Instr} (hheld : legalIn i .held = false)
    (hdone : legalIn i .done = false) : ProtocolErrorOutsideReady i := by
  rintro s (hp | hp)
  · exact exec_protocol (.inr (.inl hp)) (hp ▸ hheld)
  · exact exec_protocol (.inr (.inr hp)) (hp ▸ hdone)

/-! ### Acceptance of a raw word (R124, R165, R169) -/

theorem decode_of_not_wellFormed {c : Word} (h : wellFormed c = false) :
    ∃ w, decode c = .illegal w := by
  cases hd : decode c with
  | illegal w => exact ⟨w, rfl⟩
  | command i => simp [wellFormed_of_decode hd] at h

theorem acceptWord_not_wellFormed {c : Word} {s : State} (hw : wellFormed c = false)
    (ho : Open s) : acceptWord c s = .next (errorState s .illegalCommand c) := by
  obtain ⟨w, hd⟩ := decode_of_not_wellFormed hw
  exact acceptWord_illegal hd ho.phase_ne_error

theorem acceptWord_not_wellFormed_error {c : Word} {s : State} (hw : wellFormed c = false)
    (he : s.eng.phase = .error) : acceptWord c s = .next s := by
  obtain ⟨w, hd⟩ := decode_of_not_wellFormed hw
  exact acceptWord_illegal_error hd he

/-- R169: any word but a well-formed INIT, illegal or not. -/
theorem acceptWord_error {c : Word} {s : State} (he : s.eng.phase = .error)
    (hc : ¬ ∃ kreq hld, decode c = .command (.init kreq hld)) : acceptWord c s = .next s := by
  cases hd : decode c with
  | illegal w => exact acceptWord_illegal_error hd he
  | command i =>
    rw [acceptWord_command hd]
    refine exec_error he fun kreq hld hi => hc ⟨kreq, hld, ?_⟩
    rw [hd, hi]

/-- A word of a listed opcode with a reserved bit set is not well-formed (R123). -/
theorem illegalWords {op : BitVec 8} {reserved : Word}
    (hop : reservedBits op.toNat = some reserved) : IllegalWords op reserved := by
  rintro c s rfl hc ho
  refine acceptWord_not_wellFormed ?_ ho
  rw [← Bool.not_eq_true, wellFormed_iff_of_reservedBits hop]
  exact hc

/-! ### NOP and INIT (R170, R171) -/

theorem exec_nop {s : State} (h : Idle s) : exec .nop s = .next s := by
  obtain hp | hp | hp | hp := h
  · exact acceptCommand_of_phase hp rfl rfl
  · exact acceptCommand_of_phase hp rfl rfl
  · exact acceptCommand_of_phase hp rfl rfl
  · exact exec_error hp nofun

theorem exec_init {s : State} (h : Idle s) (kreq : BitVec 8) (hld : Bool) :
    exec (.init kreq hld) s = .next { s with eng := s.eng.initialise kreq hld } := by
  obtain hp | hp | hp | hp := h <;> rw [exec, execInit, acceptCommand_of_phase hp rfl rfl]

/-! ### ABSORB (R172) -/

theorem eq_maxLength_iff (len : Dword) : len = Config.maxLength ↔ len.toNat = 2 ^ 61 - 1 :=
  BitVec.toNat_inj.symm

theorem exec_absorb_tooLong {s : State} (b : Byte) (hp : s.eng.phase = .ready)
    (hL : s.eng.L.toNat = 2 ^ 61 - 1) :
    exec (.absorb b) s = .next (errorState s .inputTooLarge (encode (.absorb b))) := by
  rw [exec, execAbsorb, acceptCommand_of_phase hp rfl rfl, if_pos ((eq_maxLength_iff _).2 hL),
    errorState_eq_raiseError]

theorem exec_absorb_ready {s : State} (b : Byte) (hfill : s.eng.fill.toNat < 64)
    (hp : s.eng.phase = .ready) (hL : s.eng.L.toNat ≠ 2 ^ 61 - 1) :
    exec (.absorb b) s = .next { s with eng := { s.eng with
      blk := s.eng.blk.set s.eng.fill.toNat b hfill
      fill := s.eng.fill + 1#7
      L := s.eng.L + 1#64
      phase := if s.eng.fill.toNat = 63 then .slice else .ready } } := by
  rw [exec, execAbsorb, acceptCommand_of_phase hp rfl rfl, if_neg (mt (eq_maxLength_iff _).1 hL),
    Engine.appendByte_of_lt hfill]
  simp only [fill_succ_eq_iff, hp]

/-- R56 rules this state out; the model stops (assumption log 6). -/
theorem exec_absorb_full {s : State} (b : Byte) (hfill : 64 ≤ s.eng.fill.toNat)
    (hp : s.eng.phase = .ready) (hL : s.eng.L.toNat ≠ 2 ^ 61 - 1) :
    exec (.absorb b) s = .fault .blockBufferFull := by
  rw [exec, execAbsorb, acceptCommand_of_phase hp rfl rfl, if_neg (mt (eq_maxLength_iff _).1 hL),
    Engine.appendByte_none_iff.2 hfill]

/-! ### FINISH and RESUME (R173, R174) -/

theorem exec_finish_ready {s : State} (hp : s.eng.phase = .ready) :
    exec .finish s = .next { s with eng :=
      { s.eng with lbits := bitLength s.eng.L, padst := .mark, phase := .pad } } := by
  rw [exec, execFinish, acceptCommand_of_phase hp rfl rfl]

theorem exec_resume_held {s : State} (hp : s.eng.phase = .held) :
    exec .resume s = .next { s with eng :=
      { s.eng with phase := if s.eng.padst = .none then .ready else .pad } } := by
  rw [exec, execResume, acceptCommand_of_phase hp rfl rfl]

theorem exec_resume_protocol {s : State} (hp : s.eng.phase = .ready ∨ s.eng.phase = .done) :
    exec .resume s = .next (errorState s .protocolError (encode .resume)) := by
  obtain hp | hp := hp
  · exact exec_protocol (.inl hp) (by rw [hp]; rfl)
  · exact exec_protocol (.inr (.inr hp)) (by rw [hp]; rfl)

/-! ### The raw path (R180 to R182) -/

theorem exec_loadh_ready {s : State} (j : Fin 8) (hp : s.eng.phase = .ready) :
    exec (.loadh j) s =
      .next { s with eng := { s.eng with H := s.eng.H.set j.val s.eng.din j.isLt } } := by
  rw [exec, execLoadh, acceptCommand_of_phase hp rfl rfl]

theorem exec_compress_ready {s : State} (hp : s.eng.phase = .ready) (hfill : s.eng.fill = 0#7) :
    exec .compress s = .next { s with eng := { s.eng with phase := .slice } } := by
  rw [exec, execCompress, acceptCommand_of_phase hp rfl rfl, if_pos hfill]

/-- LOADM and COMPRESS while the buffer holds part of an absorbed message (R181, R182). -/
theorem exec_invariantViolation {i : Instr} {s : State} (hi : i = .compress ∨ ∃ j, i = .loadm j)
    (hp : s.eng.phase = .ready) (hfill : s.eng.fill ≠ 0#7) :
    exec i s = .next (errorState s .invariantViolation (encode i)) := by
  obtain rfl | ⟨j, rfl⟩ := hi
  case inl =>
    rw [exec, execCompress, acceptCommand_of_phase hp rfl rfl, if_neg hfill,
      errorState_eq_raiseError]
  case inr =>
    rw [exec, execLoadm, acceptCommand_of_phase hp rfl rfl, if_neg hfill,
      errorState_eq_raiseError]

/-! ### Cells that execute (R166) -/

/-- The command answers a next state outside ERROR. -/
def Executes (i : Instr) (s : State) : Prop :=
  ∃ s', exec i s = .next s' ∧ s'.eng.phase ≠ .error

theorem Executes.phase_ne_error {i : Instr} {s s' : State} (hx : Executes i s)
    (h : exec i s = .next s') : s'.eng.phase ≠ .error := by
  obtain ⟨s₁, h₁, hp⟩ := hx
  rw [h] at h₁
  cases h₁
  exact hp

theorem executes_nop {s : State} (h : Open s) : Executes .nop s :=
  ⟨s, exec_nop h.idle, h.phase_ne_error⟩

theorem executes_init {s : State} (h : Idle s) (kreq : BitVec 8) (hld : Bool) :
    Executes (.init kreq hld) s :=
  ⟨_, exec_init h kreq hld, nofun⟩

theorem executes_absorb {s : State} (b : Byte) (hfill : s.eng.fill.toNat < 64)
    (hp : s.eng.phase = .ready) (hL : s.eng.L.toNat ≠ 2 ^ 61 - 1) : Executes (.absorb b) s := by
  refine ⟨_, exec_absorb_ready b hfill hp hL, ?_⟩
  dsimp only
  split <;> nofun

theorem executes_finish {s : State} (hp : s.eng.phase = .ready) : Executes .finish s :=
  ⟨_, exec_finish_ready hp, nofun⟩

theorem executes_resume {s : State} (hp : s.eng.phase = .held) : Executes .resume s := by
  refine ⟨_, exec_resume_held hp, ?_⟩
  dsimp only
  split <;> nofun

theorem executes_loadh {s : State} (j : Fin 8) (hp : s.eng.phase = .ready) :
    Executes (.loadh j) s :=
  ⟨_, exec_loadh_ready j hp, by simp [hp]⟩

theorem executes_loadm {s : State} (j : Fin 16) (hp : s.eng.phase = .ready)
    (hfill : s.eng.fill = 0#7) : Executes (.loadm j) s :=
  ⟨_, exec_loadm_ready j hp hfill, by simp [hp]⟩

theorem executes_compress {s : State} (hp : s.eng.phase = .ready) (hfill : s.eng.fill = 0#7) :
    Executes .compress s :=
  ⟨_, exec_compress_ready hp hfill, nofun⟩

/-- A legal LOADM or COMPRESS ends in ERROR by its own exception only (R181, R182). -/
theorem errcode_of_blockCommand {i : Instr} {s s' : State} (hi : i = .compress ∨ ∃ j, i = .loadm j)
    (hp : s.eng.phase = .ready) (hx : s.eng.fill = 0#7 → Executes i s)
    (h : exec i s = .next s') (he : s'.eng.phase = .error) :
    s'.eng.errcode = .invariantViolation := by
  by_cases hfill : s.eng.fill = 0#7
  · exact absurd he ((hx hfill).phase_ne_error h)
  · rw [exec_invariantViolation hi hp hfill] at h
    cases h
    rfl

/-- A legal ABSORB ends in ERROR at the greatest length only (R172). -/
theorem errcode_of_absorb {b : Byte} {s s' : State} (hp : s.eng.phase = .ready)
    (h : exec (.absorb b) s = .next s') (he : s'.eng.phase = .error) :
    s'.eng.errcode = .inputTooLarge := by
  by_cases hL : s.eng.L.toNat = 2 ^ 61 - 1
  · rw [exec_absorb_tooLong b hp hL] at h
    cases h
    rfl
  · by_cases hfill : s.eng.fill.toNat < 64
    · exact absurd he ((executes_absorb b hfill hp hL).phase_ne_error h)
    · rw [exec_absorb_full b (by omega) hp hL] at h
      cases h

/-- R165: past the checks of encoding and phase only a command's own exceptions are left. -/
theorem errcode_of_legal {i : Instr} {s s' : State} (ho : Open s)
    (hl : legalIn i s.eng.phase = true) (h : exec i s = .next s') (he : s'.eng.phase = .error) :
    s'.eng.errcode = .inputTooLarge ∨ s'.eng.errcode = .invariantViolation := by
  cases i with
  | nop => exact absurd he ((executes_nop ho).phase_ne_error h)
  | init kreq hld => exact absurd he ((executes_init ho.idle kreq hld).phase_ne_error h)
  | absorb b => exact .inl (errcode_of_absorb (by simpa [legalIn] using hl) h he)
  | finish =>
    exact absurd he ((executes_finish (by simpa [legalIn] using hl)).phase_ne_error h)
  | resume =>
    exact absurd he ((executes_resume (by simpa [legalIn] using hl)).phase_ne_error h)
  | loadh j =>
    exact absurd he ((executes_loadh j (by simpa [legalIn] using hl)).phase_ne_error h)
  | loadm j =>
    have hp : s.eng.phase = .ready := by simpa [legalIn] using hl
    exact .inr (errcode_of_blockCommand (.inr ⟨j, rfl⟩) hp (executes_loadm j hp) h he)
  | compress =>
    have hp : s.eng.phase = .ready := by simpa [legalIn] using hl
    exact .inr (errcode_of_blockCommand (.inl rfl) hp (executes_compress hp) h he)

/-! ### Frames -/

section Frames

variable {i : Instr} {e e' : Engine}

/-- The elements of R30 that some command other than INIT, or error entry, assigns; every other
element stays. -/
theorem Answers.frame (h : Answers (.command i) e e') (hi : ∀ kreq hld, i ≠ .init kreq hld) :
    e' = { e with
      phase := e'.phase, fill := e'.fill, padst := e'.padst, H := e'.H, blk := e'.blk, L := e'.L,
      lbits := e'.lbits, errcode := e'.errcode, errcmd := e'.errcmd } := by
  cases h with
  | init => exact absurd rfl (hi _ _)
  | _ => rfl

theorem Answers.fill_L_eq (h : Answers (.command i) e e') (hi : ∀ kreq hld, i ≠ .init kreq hld)
    (ha : ∀ b, i ≠ .absorb b) : e'.fill = e.fill ∧ e'.L = e.L := by
  cases h with
  | init => exact absurd rfl (hi _ _)
  | absorb => exact absurd rfl (ha _)
  | _ => exact ⟨rfl, rfl⟩

theorem Answers.padst_lbits_eq (h : Answers (.command i) e e')
    (hi : ∀ kreq hld, i ≠ .init kreq hld) (hf : i ≠ .finish) :
    e'.padst = e.padst ∧ e'.lbits = e.lbits := by
  cases h with
  | init => exact absurd rfl (hi _ _)
  | finish => exact absurd rfl hf
  | _ => exact ⟨rfl, rfl⟩

theorem Answers.H_eq (h : Answers (.command i) e e') (hi : ∀ kreq hld, i ≠ .init kreq hld)
    (hh : ∀ j, i ≠ .loadh j) : e'.H = e.H := by
  cases h with
  | init => exact absurd rfl (hi _ _)
  | loadh => exact absurd rfl (hh _)
  | _ => rfl

theorem Answers.blk_eq (h : Answers (.command i) e e') (hi : ∀ kreq hld, i ≠ .init kreq hld)
    (ha : ∀ b, i ≠ .absorb b) (hm : ∀ j, i ≠ .loadm j) : e'.blk = e.blk := by
  cases h with
  | init => exact absurd rfl (hi _ _)
  | absorb => exact absurd rfl (ha _)
  | loadm => exact absurd rfl (hm _)
  | _ => rfl

/-- The error registers change by error entry only (R263). -/
theorem Answers.error_eq (h : Answers (.command i) e e') (hi : ∀ kreq hld, i ≠ .init kreq hld)
    (hp : e'.phase ≠ .error) : e'.errcode = e.errcode ∧ e'.errcmd = e.errcmd := by
  cases h with
  | init => exact absurd rfl (hi _ _)
  | raised => exact absurd rfl hp
  | _ => exact ⟨rfl, rfl⟩

end Frames

end Sys2Proof.Machine
end

section
/-!
PROOF. The statements about the commands (spec/41_commands.md R165 to R182), each assembled from the
rules above. This settles O4 to O15.
-/

namespace Sys2Proof.Claims

open Sys2Proof.Machine

/-- Settles O4: NOP's rule, and its row's reserved bits. -/
theorem nopChangesNothing : Obligations.NopChangesNothing :=
  ⟨hasWord_encode .nop, fun _ => exec_nop, illegalWords rfl⟩

/-- Settles O5: INIT's body written out, with the clamp as a minimum. -/
theorem initReinitialisesTheEngine : Obligations.InitReinitialisesTheEngine := by
  refine ⟨fun kreq hld => ?word, fun kreq hld s hs => ?body, illegalWords rfl⟩
  case word =>
    rw [← encode_init]
    exact hasWord_encode _
  case body => exact ⟨clampRounds kreq, clampRounds_toNat kreq, exec_init hs kreq hld⟩

/-- Settles O6: ABSORB's rule below the greatest length, and its exceptions. -/
theorem absorbAppendsOneByte : Obligations.AbsorbAppendsOneByte :=
  ⟨fun b => hasWord_encode (.absorb b), fun b _ hfill => exec_absorb_ready b hfill,
    fun b _ => exec_absorb_tooLong b, fun _ => protocolErrorOutsideReady rfl rfl, illegalWords rfl⟩

/-- Settles O7: the latched bit length does not wrap. -/
theorem finishStartsThePadding : Obligations.FinishStartsThePadding :=
  ⟨hasWord_encode .finish,
    fun s hp hL => ⟨bitLength s.eng.L, bitLength_toNat _ hL, exec_finish_ready hp⟩,
    protocolErrorOutsideReady rfl rfl, illegalWords rfl⟩

/-- Settles O8: RESUME's rule by the two cases of PADST. -/
theorem resumeLeavesHeld : Obligations.ResumeLeavesHeld := by
  refine ⟨hasWord_encode .resume, fun s hp hpad => ?ready, fun s hp hpad => ?pad,
    fun _ => exec_resume_protocol, illegalWords rfl⟩
  case ready => rw [exec_resume_held hp, if_pos hpad]
  case pad => rw [exec_resume_held hp, if_neg hpad]

/-- Settles O9: the word LOADH sets, and the seven it does not. -/
theorem loadhWritesOneHashWord : Obligations.LoadhWritesOneHashWord := by
  refine ⟨fun j => hasWord_encode (.loadh j), fun i s hp => ?body,
    fun _ => protocolErrorOutsideReady rfl rfl, illegalWords rfl⟩
  case body =>
    refine ⟨_, exec_loadh_ready i hp, Vector.getElem_set_self i.isLt, fun j hj => ?_⟩
    exact Vector.getElem_set_ne i.isLt j.isLt fun hv => hj (Fin.ext hv.symm)

/-- Settles O10: the four bytes of LOADM's store, and the sixty it leaves. -/
theorem loadmWritesFourBlockBytes : Obligations.LoadmWritesFourBlockBytes := by
  refine ⟨fun i => hasWord_encode (.loadm i), fun i s hp hfill => ?body,
    fun i _ => exec_invariantViolation (.inr ⟨i, rfl⟩),
    fun _ => protocolErrorOutsideReady rfl rfl, illegalWords rfl⟩
  case body =>
    exact ⟨_, exec_loadm_ready i hp hfill, fun j => putBlockWord_of_eq _ i _ j.val j.isLt,
      fun j => putBlockWord_of_ne _ i _ j.val j.isLt⟩

/-- Settles O11: COMPRESS's rule at FILL 0, and its exceptions. -/
theorem compressStartsABlock : Obligations.CompressStartsABlock :=
  ⟨hasWord_encode .compress, fun _ => exec_compress_ready,
    fun _ => exec_invariantViolation (.inl rfl), protocolErrorOutsideReady rfl rfl,
    illegalWords rfl⟩

/-- Settles O12: the host's side by `exec_host`, the engine's elements by the frames of `Answers`. -/
theorem commandFrame : Obligations.CommandFrame := by
  intro i s s' hi h
  have hhost := exec_host h
  have ha := exec_answers h
  have hframe := ha.frame hi
  refine ⟨(congrArg State.program hhost :), (congrArg State.responses hhost :),
    (congrArg State.held hhost :), (congrArg State.turns hhost :), (congrArg Engine.t hframe :),
    (congrArg Engine.V hframe :), (congrArg Engine.t1r hframe :), (congrArg Engine.t2r hframe :),
    (congrArg Engine.W hframe :), (congrArg Engine.records hframe :),
    (congrArg Engine.reck hframe :), (congrArg Engine.reccnt hframe :),
    (congrArg Engine.hold hframe :), (congrArg Engine.first hframe :),
    (congrArg Engine.blkcnt hframe :), (congrArg Engine.din hframe :), ?changes⟩
  exact ⟨ha.fill_L_eq hi, ha.padst_lbits_eq hi, ha.H_eq hi, ha.blk_eq hi, ha.error_eq hi⟩

/-- Settles O13: the table's cells by the rules of acceptance and of the commands. -/
theorem legalityTable : Obligations.LegalityTable := by
  refine ⟨fun _ _ => exec_error, ?readyOnly, fun _ => exec_resume_protocol, ?executesInReady,
    fun b _ => exec_absorb_tooLong b, fun _ _ hp hi => exec_invariantViolation hi hp,
    ?executesElsewhere, fun _ _ => acceptWord_not_wellFormed,
    fun _ _ => acceptWord_not_wellFormed_error⟩
  case readyOnly =>
    rintro i s (rfl | rfl | ⟨b, rfl⟩ | ⟨j, rfl⟩ | ⟨j, rfl⟩) hp <;>
      exact protocolErrorOutsideReady rfl rfl s hp
  case executesInReady =>
    rintro i s hp (rfl | rfl | ⟨kreq, hld, rfl⟩ | ⟨j, rfl⟩ | ⟨⟨b, rfl⟩, hfill, hL⟩ |
      ⟨rfl | ⟨j, rfl⟩, hfill⟩)
    · exact executes_nop (.inl hp)
    · exact executes_finish hp
    · exact executes_init (.inl hp) kreq hld
    · exact executes_loadh j hp
    · exact executes_absorb b (by omega) hp hL
    · exact executes_compress hp hfill
    · exact executes_loadm j hp hfill
  case executesElsewhere =>
    rintro i s (⟨hp, rfl | rfl | ⟨kreq, hld, rfl⟩⟩ | ⟨hp, rfl | ⟨kreq, hld, rfl⟩⟩ |
      ⟨hp, kreq, hld, rfl⟩)
    · exact executes_nop (.inr (.inl hp))
    · exact executes_resume hp
    · exact executes_init (.inr (.inl hp)) kreq hld
    · exact executes_nop (.inr (.inr hp))
    · exact executes_init (.inr (.inr (.inl hp))) kreq hld
    · exact executes_init (.inr (.inr (.inr hp))) kreq hld

/-- Settles O14: INIT's rule in ERROR; acceptance ignores every other word. -/
theorem errorPhaseIgnoresAllButInit : Obligations.ErrorPhaseIgnoresAllButInit := by
  intro c s he
  refine ⟨fun kreq hld hd => ⟨clampRounds kreq, clampRounds_toNat kreq, ?_⟩, acceptWord_error he⟩
  rw [acceptWord_command hd, exec_init (.inr (.inr (.inr he))), initialised_eq_initialise]

/-- Settles O15: a well-formed word is its one command's, whose phase is checked next. -/
theorem errorChecksInOrder : Obligations.ErrorChecksInOrder := by
  intro c s ho
  refine ⟨fun hw => acceptWord_not_wellFormed hw ho, fun hw => ?_⟩
  obtain ⟨i, hd⟩ := decode_of_wellFormed hw
  rw [acceptWord_command hd]
  refine ⟨i, hd, fun hl => ?phase, fun hl => ⟨rfl, fun s' => errcode_of_legal ho hl⟩⟩
  case phase => rw [exec_protocol ho hl, encode_of_decode hd, errorState_eq_raiseError]

end Sys2Proof.Claims
end

section
/-!
PROOF. The PAD and SLICE micro-steps as equations (spec/42_padding_slicing.md R200, R201), and the
lengths of the padding (R203 to R205). This settles O19, O20 and O54.
-/

namespace Sys2Proof.Machine

/-! ### The byte a PAD step appends (R200) -/

/-- The position of the padding stage in front of length byte `k` (R34): ZERO stands in front of byte
0, LENk in front of byte `k`, and LAST behind the last one. -/
def lengthState : Nat → PadState
  | 0 => .zero
  | 1 => .len1
  | 2 => .len2
  | 3 => .len3
  | 4 => .len4
  | 5 => .len5
  | 6 => .len6
  | 7 => .len7
  | _ => .last

theorem lengthState_eq_last_iff (k : Nat) : lengthState k = .last ↔ 8 ≤ k := by
  by_cases hk : k < 8
  · interval_cases k <;> simp [lengthState]
  · obtain ⟨m, rfl⟩ : ∃ m, k = m + 8 := ⟨k - 8, by omega⟩
    simp [lengthState]

theorem lengthState_ne_none (k : Nat) : lengthState k ≠ .none := by
  unfold lengthState
  split <;> nofun

theorem eq_lengthPosition_iff (f : BitVec 7) : f = Config.lengthPosition ↔ f.toNat = 56 :=
  BitVec.toNat_inj.symm

theorem padByte_mark {e : Engine} (hp : e.padst = .mark) : padByte e = some (0x80#8, .zero) := by
  simp only [padByte, hp]

theorem padByte_zero {e : Engine} (hp : e.padst = .zero) (hf : e.fill.toNat ≠ 56) :
    padByte e = some (0x00#8, .zero) := by
  simp only [padByte, hp, if_neg (mt (eq_lengthPosition_iff e.fill).1 hf)]

/-- Length byte 0 comes from position 56 on (R200). -/
theorem padByte_length {e : Engine} {k : Nat} (hk : k < 8) (hp : e.padst = lengthState k)
    (hf : k = 0 → e.fill.toNat = 56) :
    padByte e = some (lengthByte e.lbits k, lengthState (k + 1)) := by
  unfold padByte
  cases k with
  | zero => simp only [hp, lengthState, if_pos ((eq_lengthPosition_iff e.fill).2 (hf rfl))]
  | succ k =>
    have hk : k < 7 := Nat.lt_of_succ_lt_succ hk
    interval_cases k <;> simp only [hp, lengthState]

/-- A PAD step stores its byte as the next of the block (R200). -/
theorem padStep_eq {e : Engine} {b : Byte} {p : PadState} (hbyte : padByte e = some (b, p))
    (hfill : e.fill.toNat < 64) : padStep e = .ok { e with
      blk := e.blk.set e.fill.toNat b hfill
      fill := e.fill + 1#7
      padst := p
      phase := if e.fill.toNat = 63 then .slice else e.phase } := by
  simp only [padStep, hbyte, Engine.appendByte_of_lt (e := { e with padst := p }) hfill,
    fill_succ_eq_iff]

end Sys2Proof.Machine

namespace Sys2Proof.Machine.Reference

/-! ### The padding's length and the block count (R203, R204, R205) -/

theorem length_padding (len : Nat) : (padding len).length = 9 + zeroCount len := by
  simp only [padding, List.length_cons, List.length_append, List.length_replicate, List.length_map,
    List.length_range]
  omega

theorem blockCount_eq (len : Nat) : blockCount len = len / 64 + finishBlocks len := by
  unfold blockCount finishBlocks
  split <;> omega

/-- The padding ends FINISH's last block. -/
theorem tail_add_padding (len : Nat) :
    len % 64 + (padding len).length = 64 * finishBlocks len := by
  rw [length_padding, zeroCount, finishBlocks]
  split <;> omega

end Sys2Proof.Machine.Reference

namespace Sys2Proof.Claims

open Sys2Proof.Machine Sys2Proof.Machine.Reference

/-- Settles O19: PADST and FILL give the byte, and the step stores it. -/
theorem padStepAppendsOneByte : Obligations.PadStepAppendsOneByte := by
  intro e h hphase b p hcase
  have hbyte : padByte e = some (b, p) := by
    obtain ⟨hp, rfl, rfl⟩ | ⟨hp, hf, rfl, rfl⟩ | ⟨hp, hf, rfl, rfl⟩ | ⟨hp, rfl, rfl⟩ |
      ⟨hp, rfl, rfl⟩ | ⟨hp, rfl, rfl⟩ | ⟨hp, rfl, rfl⟩ | ⟨hp, rfl, rfl⟩ | ⟨hp, rfl, rfl⟩ |
      ⟨hp, rfl, rfl⟩ := hcase
    · exact padByte_mark hp
    · exact padByte_zero hp hf
    · exact padByte_length (k := 0) (by decide) hp fun _ => hf
    · exact padByte_length (k := 1) (by decide) hp nofun
    · exact padByte_length (k := 2) (by decide) hp nofun
    · exact padByte_length (k := 3) (by decide) hp nofun
    · exact padByte_length (k := 4) (by decide) hp nofun
    · exact padByte_length (k := 5) (by decide) hp nofun
    · exact padByte_length (k := 6) (by decide) hp nofun
    · exact padByte_length (k := 7) (by decide) hp nofun
  rw [microStep_pad hphase, padStep_eq hbyte h, hphase]

/-- Settles O20: SLICE's words are the buffer's, and a word of the buffer is its four bytes. -/
theorem sliceStepReadsBigEndianWords : Obligations.SliceStepReadsBigEndianWords := by
  intro e hphase
  refine ⟨sliceWords e.blk e.W, microStep_slice hphase, fun i h => ?low, sliceWords_of_ge _ _⟩
  case low => rw [sliceWords_of_lt _ _ i h, blockWord, be32_eq_append]

/-- Settles O54: the padding is as long as R203 says, and ends the last block, FINISH's share of
which has the length field behind the message. -/
theorem paddedLengthIsTheLeastThatFits : Obligations.PaddedLengthIsTheLeastThatFits := by
  intro len
  refine ⟨?zeros, length_padding len, ?blocks, ?above, ?least, blockCount_eq len⟩
  case zeros => unfold zeroCount; omega
  case blocks => rw [blockCount_eq]; have := tail_add_padding len; omega
  case above => unfold blockCount; omega
  case least => intro m hm; unfold blockCount; omega

end Sys2Proof.Claims
end

section
/-!
PROOF. One block from SLICE to FINAL as one equation (spec/42_padding_slicing.md R201,
spec/43_schedule_compression.md R220 to R227): the schedule word by word, the rounds one by one, and
the final addition, compared with the reference algorithm.
-/

namespace Sys2Proof.Machine

open Sys2Proof.Machine.Reference

/-! ### The schedule (R201, R220) -/

theorem schedStep_of_lt {e : Engine} {t : Nat} (ht : e.t.toNat = t) (h : 16 ≤ t ∧ t < 64)
    (hlast : t ≠ 63) : schedStep e =
      .ok { e with W := setScheduleWord e.W t h, t := BitVec.ofNat 7 (t + 1) } := by
  subst ht
  have hne : e.t ≠ 63#7 := fun h63 => hlast (by rw [h63]; rfl)
  have hsucc : e.t + 1#7 = BitVec.ofNat 7 (e.t.toNat + 1) := by bv_omega
  rw [schedStep, dif_pos h, if_neg hne, hsucc]

theorem schedStep_last {e : Engine} (ht : e.t = 63#7) : schedStep e =
    .ok { e with W := setScheduleWord e.W 63 (by decide), V := e.H, t := 0#7, phase := .round } := by
  have h63 : e.t.toNat = 63 := by rw [ht]; rfl
  rw [schedStep, dif_pos (by omega), if_pos ht]
  simp only [h63]

theorem scheduleUpTo_succ (blk : Vector Byte 64) {n : Nat} (hn : n < 48) :
    scheduleUpTo blk (n + 1) = (scheduleUpTo blk n).set (n + 16)
      (scheduleWord (scheduleUpTo blk n)[n + 14] (scheduleUpTo blk n)[n + 9]
        (scheduleUpTo blk n)[n + 1] (scheduleUpTo blk n)[n]) (by omega) := by
  rw [scheduleUpTo, dif_pos hn]

/-- The words below `k` are the schedule's as far as it is computed. -/
def ScheduledBelow (k : Nat) (w s : Vector Word 64) : Prop :=
  ∀ (i : Nat) (h : i < 64), i < k → w[i] = s[i]

theorem scheduledBelow_sliceWords (blk : Vector Byte 64) (w : Vector Word 64) :
    ScheduledBelow 16 (sliceWords blk w) (scheduleUpTo blk 0) := by
  intro i h hi
  rw [sliceWords_of_lt blk w i hi]
  simp [scheduleUpTo, hi]

/-- SCHED's word is the reference's next one: both come from the same four earlier words. -/
theorem ScheduledBelow.succ {blk : Vector Byte 64} {w : Vector Word 64} {n : Nat} (hn : n < 48)
    (hw : ScheduledBelow (n + 16) w (scheduleUpTo blk n)) (h : 16 ≤ n + 16 ∧ n + 16 < 64) :
    ScheduledBelow (n + 17) (setScheduleWord w (n + 16) h) (scheduleUpTo blk (n + 1)) := by
  intro i hi hlt
  rw [scheduleUpTo_succ blk hn]
  by_cases hne : i = n + 16
  · subst hne
    rw [setScheduleWord_self, Vector.getElem_set_self]
    congr 1
    · exact hw (n + 14) (by omega) (by omega)
    · exact hw (n + 9) (by omega) (by omega)
    · exact hw (n + 1) (by omega) (by omega)
    · exact hw n (by omega) (by omega)
  · rw [setScheduleWord_of_ne _ _ _ _ _ hne, Vector.getElem_set_ne _ _ (Ne.symm hne)]
    exact hw i hi (by omega)

theorem ScheduledBelow.eq {w s : Vector Word 64} (h : ScheduledBelow 64 w s) : w = s :=
  Vector.ext fun i hi => h i hi hi

/-- SLICE and the first `n` SCHED micro-steps change W, t and PHASE only. -/
theorem microSteps_sched {e : Engine} (hphase : e.phase = .slice) {n : Nat} (hn : n < 48) :
    ∃ w, microSteps (n + 1) e = .ok { e with
        W := w, t := BitVec.ofNat 7 (n + 16), phase := .sched } ∧
      ScheduledBelow (n + 16) w (scheduleUpTo e.blk n) := by
  induction n with
  | zero =>
    exact ⟨_, microSteps_snoc (microSteps_zero e) (microStep_slice hphase),
      scheduledBelow_sliceWords e.blk e.W⟩
  | succ n ih =>
    obtain ⟨w, hrun, hw⟩ := ih (by omega)
    have ht : (BitVec.ofNat 7 (n + 16)).toNat = n + 16 := by
      rw [BitVec.toNat_ofNat, Nat.mod_eq_of_lt (by omega)]
    refine ⟨setScheduleWord w (n + 16) (by omega), ?_, hw.succ (by omega) (by omega)⟩
    refine microSteps_snoc hrun ?_
    rw [microStep_sched rfl, schedStep_of_lt ht (by omega) (by omega)]

/-- After 49 micro-steps the schedule is complete and the rounds start from H (R220). -/
theorem microSteps_schedule {e : Engine} (hphase : e.phase = .slice) :
    microSteps 49 e = .ok { e with
      W := schedule e.blk, V := e.H, t := 0#7, phase := .round } := by
  obtain ⟨w, hrun, hw⟩ := microSteps_sched hphase (n := 47) (by decide)
  have hschedule := (hw.succ (by decide) (by decide)).eq
  refine microSteps_snoc hrun ?_
  rw [microStep_sched rfl, schedStep_last rfl]
  simp only [hschedule, schedule]

/-! ### The rounds (R221) -/

theorem varsAfter_succ (w : Vector Word 64) (v : Vector Word 8) {n : Nat} (hn : n < 64) :
    varsAfter w v (n + 1) = roundVars (varsAfter w v n)
      (roundT1 (varsAfter w v n) Rom.k[n] w[n]) (roundT2 (varsAfter w v n)) := by
  rw [varsAfter, dif_pos hn]

/-- A run goes on with round `n`, the recorder's elements left open. -/
theorem microSteps_snoc_round {m n : Nat} {e e₁ : Engine} (hrun : microSteps m e = .ok e₁)
    (hphase : e₁.phase = .round) (ht : e₁.t = BitVec.ofNat 7 n) (hn : n < 64) :
    ∃ t1 t2 records reccnt, microSteps (m + 1) e = .ok { e₁ with
      V := roundVars e₁.V (roundT1 e₁.V Rom.k[n] e₁.W[n]) (roundT2 e₁.V)
      t1r := t1, t2r := t2, records := records, reccnt := reccnt
      t := BitVec.ofNat 7 (n + 1)
      phase := if n = 63 then .final else .round } := by
  have htn : e₁.t.toNat = n := by rw [ht, BitVec.toNat_ofNat, Nat.mod_eq_of_lt (by omega)]
  have hsucc : e₁.t + 1#7 = BitVec.ofNat 7 (n + 1) := by bv_omega
  have hlast : e₁.t = 63#7 ↔ n = 63 := by rw [← BitVec.toNat_inj, htn]; rfl
  have hstep := (microStep_round hphase).trans (roundStep_of_lt (by omega))
  simp only [htn, hsucc, hlast, hphase] at hstep
  exact ⟨_, _, _, _, microSteps_snoc hrun hstep⟩

/-- The first `n` rounds turn V into the reference's working variables. -/
theorem microSteps_round {e : Engine} (hphase : e.phase = .slice) {n : Nat} (hn : n ≤ 64) :
    ∃ t1 t2 records reccnt, microSteps (49 + n) e = .ok { e with
      W := schedule e.blk
      V := varsAfter (schedule e.blk) e.H n
      t1r := t1, t2r := t2, records := records, reccnt := reccnt
      t := BitVec.ofNat 7 n
      phase := if n = 64 then .final else .round } := by
  induction n with
  | zero => exact ⟨_, _, _, _, microSteps_schedule hphase⟩
  | succ n ih =>
    obtain ⟨_, _, _, _, hrun⟩ := ih (by omega)
    rw [if_neg (by omega)] at hrun
    obtain ⟨t1, t2, records, reccnt, hrun'⟩ := microSteps_snoc_round hrun rfl rfl (by omega)
    refine ⟨t1, t2, records, reccnt, hrun'.trans ?_⟩
    simp only [varsAfter_succ (schedule e.blk) e.H (n := n) (by omega), Nat.reduceEqDiff]

/-! ### The whole block (R224, R225, R227) -/

/-- A block takes 114 micro-steps, and what they leave depends on BLK, H, PADST and HOLD alone, but
for the recorder's elements and the last round's T1 and T2. -/
theorem microSteps_block {e : Engine} (hphase : e.phase = .slice) :
    ∃ t1 t2 records reccnt, microSteps 114 e = .ok { e with
      W := schedule e.blk
      V := varsAfter (schedule e.blk) e.H 64
      t1r := t1, t2r := t2, records := records, reccnt := reccnt
      H := compress e.H e.blk
      blkcnt := e.blkcnt + 1#64
      first := false
      fill := 0#7
      t := 0#7
      phase := phaseAfterBlock e.padst e.hold } := by
  obtain ⟨_, _, _, _, hrun⟩ := microSteps_round hphase (n := 64) (by decide)
  exact ⟨_, _, _, _, microSteps_snoc hrun (microStep_final rfl)⟩

end Sys2Proof.Machine
end

section
/-!
PROOF. The padding stage (spec/42_padding_slicing.md R200 to R206): what the block buffer holds, the
padding byte by byte, and what a run of PAD steps leaves in the buffer. This settles O50.
-/

namespace Sys2Proof.Machine.Reference

/-! ### The padding byte by byte (R202) -/

theorem padding_mark (len : Nat) : (padding len)[0]? = some 0x80#8 := rfl

theorem padding_zero {len j : Nat} (hj : j < zeroCount len) :
    (padding len)[j + 1]? = some 0x00#8 := by
  rw [padding, List.getElem?_cons_succ, List.getElem?_append_left (by simpa using hj),
    List.getElem?_replicate_of_lt hj]

theorem padding_length {len k : Nat} (hk : k < 8) :
    (padding len)[zeroCount len + k + 1]? =
      some (lengthByte (BitVec.ofNat 64 (8 * len)) k) := by
  rw [padding, List.getElem?_cons_succ, List.getElem?_append_right (by simp)]
  simp [hk]

end Sys2Proof.Machine.Reference

namespace Sys2Proof.Machine

open Sys2Proof.Machine.Reference

/-! ### What the block buffer holds (R33, R39) -/

/-- The FILL bytes in the block buffer are the first of `l`. -/
def Buffered (l : List Byte) (e : Engine) : Prop :=
  ∀ (i : Nat) (h : i < 64), i < e.fill.toNat → l[i]? = some e.blk[i]

theorem Buffered.of_empty {l : List Byte} {e : Engine} (hfill : e.fill = 0#7) : Buffered l e := by
  intro i _ hi
  simp [hfill] at hi

/-- Storing the next byte of the list (R172, R200). -/
theorem Buffered.store {l : List Byte} {e e' : Engine} {b : Byte} (h : Buffered l e)
    (hfill : e.fill.toNat < 64) (hb : l[e.fill.toNat]? = some b)
    (hblk : e'.blk = e.blk.set e.fill.toNat b hfill)
    (hfill' : e'.fill.toNat = e.fill.toNat + 1) : Buffered l e' := by
  intro i hi hlt
  simp only [hblk, Vector.getElem_set]
  split
  next heq => rw [← heq, hb]
  next hne => exact h i hi (by omega)

/-- Bytes behind those in the buffer do not matter. -/
theorem Buffered.append {l : List Byte} {e : Engine} (h : Buffered l e)
    (hlen : e.fill.toNat ≤ l.length) (l' : List Byte) : Buffered (l ++ l') e := by
  intro i hi hlt
  rw [List.getElem?_append_left (by omega)]
  exact h i hi hlt

theorem Buffered.blk_eq {l : List Byte} {e : Engine} (h : Buffered l e) (hfull : e.fill = 64#7) :
    e.blk = firstBlock l := by
  refine Vector.ext fun i hi => ?_
  simp [firstBlock, List.getD_eq_getElem?_getD, h i hi (by simpa [hfull] using hi)]

/-! ### The padding stage (R200, R202) -/

/-- PADST in front of padding byte `j` of a message of `len` bytes. -/
def padPosition (len j : Nat) : PadState :=
  if j = 0 then .mark else lengthState (j - (zeroCount len + 1))

/-- ZERO stands in front of the zero bytes and of length byte 0. -/
theorem padPosition_zero {len i : Nat} (hi : i ≤ zeroCount len) :
    padPosition len (i + 1) = .zero := by
  have h0 : i + 1 - (zeroCount len + 1) = 0 := by omega
  rw [padPosition, if_neg (by omega), h0, lengthState]

theorem padPosition_length (len k : Nat) :
    padPosition len (zeroCount len + k + 1) = lengthState k := by
  have hk : zeroCount len + k + 1 - (zeroCount len + 1) = k := by omega
  rw [padPosition, if_neg (by omega), hk]

theorem padPosition_ne_none (len j : Nat) : padPosition len j ≠ .none := by
  unfold padPosition
  split
  · nofun
  · exact lengthState_ne_none _

theorem padPosition_eq_last_iff (len j : Nat) :
    padPosition len j = .last ↔ (padding len).length ≤ j := by
  rw [length_padding, padPosition]
  split
  · simp only [reduceCtorEq, false_iff]; omega
  · rw [lengthState_eq_last_iff]; omega

/-- The engine in the padding of a message of `len` bytes, in front of padding byte `j`. The block
under way and those behind it, as far as the padding goes, are `l`. -/
structure Padding (len j : Nat) (l : List Byte) (e : Engine) : Prop where
  padst    : e.padst = padPosition len j
  /-- FILL counts the padded message modulo 64 (R202). -/
  fill     : e.fill.toNat % 64 = (len + j) % 64
  lbits    : e.lbits = BitVec.ofNat 64 (8 * len)
  buffered : Buffered l e
  /-- What of `l` is still to come is what of the padding is still to come. -/
  rest     : l.drop e.fill.toNat = (padding len).drop j

/-- Two engines that differ in the elements a PAD step assigns at most (R200). -/
def SameButPadding (e e' : Engine) : Prop :=
  { e with blk := e'.blk, fill := e'.fill, padst := e'.padst, phase := e'.phase } = e'

theorem SameButPadding.refl (e : Engine) : SameButPadding e e := rfl

theorem SameButPadding.trans {e e₁ e₂ : Engine} (h : SameButPadding e e₁)
    (h₁ : SameButPadding e₁ e₂) : SameButPadding e e₂ := by
  unfold SameButPadding at h h₁ ⊢
  rw [← h₁, ← h]

theorem SameButPadding.message_eq {e e' : Engine} (h : SameButPadding e e') :
    e'.H = e.H ∧ e'.L = e.L ∧ e'.blkcnt = e.blkcnt ∧ e'.hold = e.hold := by
  unfold SameButPadding at h
  rw [← h]
  exact ⟨rfl, rfl, rfl, rfl⟩

section Stage

variable {len j : Nat} {l : List Byte} {e : Engine}

/-- Padding byte `j` is the byte the next PAD step appends. Position 56 is met with ZERO just when
the zero bytes are done, since they are fewer than 64. -/
theorem Padding.padByte_eq (h : Padding len j l e) (hfill : e.fill.toNat < 64)
    (hj : j < (padding len).length) :
    ∃ b, (padding len)[j]? = some b ∧ padByte e = some (b, padPosition len (j + 1)) := by
  have hz : zeroCount len = (119 - len % 64) % 64 := rfl
  have hmod := h.fill
  have hpadst := h.padst
  rw [length_padding] at hj
  obtain rfl | ⟨i, rfl, hi⟩ | ⟨k, rfl⟩ : j = 0 ∨ (∃ i, j = i + 1 ∧ i < zeroCount len) ∨
      ∃ k, j = zeroCount len + k + 1 := by
    by_cases h0 : j = 0
    · exact .inl h0
    · by_cases hi : j - 1 < zeroCount len
      · exact .inr (.inl ⟨j - 1, by omega, hi⟩)
      · exact .inr (.inr ⟨j - 1 - zeroCount len, by omega⟩)
  case inl =>
    exact ⟨_, padding_mark len, (padPosition_zero (Nat.zero_le _)).symm ▸ padByte_mark hpadst⟩
  case inr.inl =>
    rw [padPosition_zero hi.le] at hpadst
    rw [padPosition_zero hi]
    exact ⟨_, padding_zero hi, padByte_zero hpadst (by omega)⟩
  case inr.inr =>
    rw [padPosition_length] at hpadst
    rw [Nat.add_assoc _ k 1, padPosition_length, ← Nat.add_assoc]
    refine ⟨_, padding_length (by omega), ?_⟩
    rw [← h.lbits]
    exact padByte_length (by omega) hpadst (by omega)

/-- As many bytes of the list are still to come as of the padding. -/
theorem Padding.length_rest (h : Padding len j l e) :
    l.length - e.fill.toNat = (padding len).length - j := by
  simpa using congrArg List.length h.rest

/-- A PAD step stores the list's next byte. -/
theorem Padding.step (h : Padding len j l e) (hphase : e.phase = .pad)
    (hfill : e.fill.toNat < 64) (hl : e.fill.toNat < l.length) :
    ∃ e', microStep e = .ok e' ∧ Padding len (j + 1) l e' ∧
      e'.fill.toNat = e.fill.toNat + 1 ∧
      e'.phase = (if e.fill.toNat + 1 = 64 then .slice else .pad) ∧ SameButPadding e e' := by
  have hrest := h.length_rest
  obtain ⟨b, hb, hbyte⟩ := h.padByte_eq hfill (by omega)
  have hsucc := Safety.toNat_succ_of_le e.fill (by omega)
  have hnext : l[e.fill.toNat]? = some b := by
    rw [← hb, ← List.head?_drop, ← List.head?_drop, h.rest]
  refine ⟨_, (microStep_pad hphase).trans (padStep_eq hbyte hfill), ?_, hsucc, ?_, rfl⟩
  · exact {
      padst := rfl
      fill := by have := h.fill; simp only [hsucc]; omega
      lbits := h.lbits
      buffered := h.buffered.store hfill hnext rfl hsucc
      rest := by simp only [hsucc, ← List.tail_drop, h.rest] }
  · simp only [hphase, Nat.reduceEqDiff]

/-- `n` PAD steps, as far as the block and the list go. -/
theorem Padding.run (h : Padding len j l e) (hphase : e.phase = .pad) {n : Nat}
    (hfill : e.fill.toNat < 64) (hn : e.fill.toNat + n ≤ 64) (hl : e.fill.toNat + n ≤ l.length) :
    ∃ e', microSteps n e = .ok e' ∧ Padding len (j + n) l e' ∧
      e'.fill.toNat = e.fill.toNat + n ∧
      e'.phase = (if e.fill.toNat + n = 64 then .slice else .pad) ∧ SameButPadding e e' := by
  induction n with
  | zero => exact ⟨e, rfl, h, rfl, by rw [hphase, if_neg (by omega)], .refl e⟩
  | succ n ih =>
    obtain ⟨e₁, hrun, h₁, hfill₁, hphase₁, hsame₁⟩ := ih (by omega) (by omega)
    rw [if_neg (by omega)] at hphase₁
    obtain ⟨e₂, hstep, h₂, hfill₂, hphase₂, hsame₂⟩ := h₁.step hphase₁ (by omega) (by omega)
    rw [hfill₁] at hfill₂ hphase₂
    exact ⟨e₂, microSteps_snoc hrun hstep, h₂, hfill₂, hphase₂, hsame₁.trans hsame₂⟩

/-- The PAD steps fill the block under way, and the padding ends with it when the list does. -/
theorem Padding.fills (h : Padding len j l e) (hphase : e.phase = .pad)
    (hfill : e.fill.toNat < 64) (hl : 64 ≤ l.length) :
    ∃ e', microSteps (64 - e.fill.toNat) e = .ok e' ∧
      Padding len (j + (64 - e.fill.toNat)) l e' ∧ e'.phase = .slice ∧ e'.fill = 64#7 ∧
      e'.blk = firstBlock l ∧ (e'.padst = .last ↔ l.length = 64) ∧ SameButPadding e e' := by
  obtain ⟨e', hrun, h', hfill', hphase', hsame⟩ :=
    h.run hphase (n := 64 - e.fill.toNat) hfill (by omega) (by omega)
  have h64 : e'.fill.toNat = 64 := by omega
  have hfull : e'.fill = 64#7 := BitVec.eq_of_toNat_eq h64
  have hrest := h'.length_rest
  rw [if_pos (by omega)] at hphase'
  refine ⟨e', hrun, h', hphase', hfull, h'.buffered.blk_eq hfull, ?_, hsame⟩
  rw [h'.padst, padPosition_eq_last_iff]
  omega

end Stage

/-! ### FINISH (R173) -/

theorem bitLength_eq (len : Dword) : bitLength len = BitVec.ofNat 64 (8 * len.toNat) := by
  rw [bitLength, BitVec.ofNat_mul, BitVec.ofNat_toNat, BitVec.setWidth_eq]

/-- FINISH leaves the engine in front of padding byte 0, behind the message's last bytes. -/
theorem Padding.of_finish {e : Engine} {tail : List Byte} (hlen : tail.length = e.fill.toNat)
    (hbuffered : Buffered tail e) (hmod : e.fill.toNat % 64 = e.L.toNat % 64) :
    Padding e.L.toNat 0 (tail ++ padding e.L.toNat)
      { e with lbits := bitLength e.L, padst := .mark, phase := .pad } where
  padst := rfl
  fill := hmod
  lbits := bitLength_eq e.L
  buffered := hbuffered.append hlen.ge _
  rest := by simp [← hlen]

/-- The bytes behind the message's whole blocks, padded, are FINISH's blocks (R204). -/
theorem length_append_padding {len : Nat} {tail : List Byte} (hlt : tail.length < 64)
    (hmod : tail.length % 64 = len % 64) :
    (tail ++ padding len).length = 64 * finishBlocks len := by
  have := tail_add_padding len
  rw [List.length_append]
  omega

end Sys2Proof.Machine

namespace Sys2Proof.Claims

open Sys2Proof.Machine Sys2Proof.Machine.Reference Sys2Proof.Safety

/-- Settles O50: FINISH stands in front of the padding, and its PAD steps fill the block under way,
which is FINISH's last just when the length field fits. -/
theorem finishPadsTheCurrentBlock : Obligations.FinishPadsTheCurrentBlock := by
  intro s s' tail h hphase hlen htail hexec
  cases (exec_finish_ready hphase).symm.trans hexec
  obtain ⟨hfill, hpad, -⟩ := h.engine.shape.ready hphase
  have hmod := h.engine.fill_mod hpad
  have hpadding := Padding.of_finish hlen (fun i hi hlt => htail i hi (hlen ▸ hlt)) hmod
  have hblocks := length_append_padding (tail := tail) (len := s.eng.L.toNat) (by omega) (by omega)
  have hcount : finishBlocks s.eng.L.toNat = 1 ↔ s.eng.L.toNat % 64 ≤ 55 := by
    unfold finishBlocks
    split <;> simp [*]
  have hpos : 1 ≤ finishBlocks s.eng.L.toNat := by unfold finishBlocks; split <;> decide
  obtain ⟨e, hrun, -, hslice, hfull, hblk, hlast, hsame⟩ :=
    hpadding.fills rfl (by simpa using Nat.lt_succ_of_le hfill) (by omega)
  obtain ⟨-, hL, -, -⟩ := hsame.message_eq
  rw [hlen]
  refine ⟨e, hrun, hslice, hfull, hblk, ?_, hL⟩
  rw [hlast, ← hcount]
  omega

end Sys2Proof.Claims
end

section
/-!
PROOF. A message on the engine (spec/42_padding_slicing.md R206, spec/44_digest_output.md R244): the
absorbed bytes block by block, and FINISH's blocks up to DONE, compared with the reference digest.
-/

namespace Sys2Proof.Machine.Reference

/-! ### The blocks of a list (R206) -/

theorem blocks_add (m n : Nat) (l : List Byte) :
    blocks (m + n) l = blocks m l ++ blocks n (l.drop (64 * m)) := by
  induction m generalizing l with
  | zero => simp [blocks]
  | succ m ih =>
    rw [Nat.succ_add, blocks, blocks, ih, List.drop_drop, List.cons_append, Nat.mul_succ,
      Nat.add_comm 64]

theorem firstBlock_append {l : List Byte} (h : 64 ≤ l.length) (l' : List Byte) :
    firstBlock (l ++ l') = firstBlock l := by
  refine Vector.ext fun i hi => ?_
  simp [firstBlock, List.getD_eq_getElem?_getD, List.getElem?_append_left (hi.trans_le h)]

theorem blocks_append {m : Nat} {l : List Byte} (h : 64 * m ≤ l.length) (l' : List Byte) :
    blocks m (l ++ l') = blocks m l := by
  induction m generalizing l with
  | zero => rfl
  | succ m ih =>
    rw [blocks, blocks, firstBlock_append (by omega), List.drop_append_of_le_length (by omega),
      ih (by rw [List.length_drop]; omega)]

/-- The digest in two parts: the message's whole blocks, and FINISH's (R204). -/
theorem digest_eq (msg : List Byte) : digest msg =
    (blocks (finishBlocks msg.length)
      (msg.drop (64 * (msg.length / 64)) ++ padding msg.length)).foldl compress
      ((blocks (msg.length / 64) msg).foldl compress Rom.iv) := by
  have hle : 64 * (msg.length / 64) ≤ msg.length := by omega
  rw [digest, blockCount_eq, blocks_add, padded, blocks_append hle,
    List.drop_append_of_le_length hle, List.foldl_append]

end Sys2Proof.Machine.Reference

namespace Sys2Proof.Machine

open Sys2Proof.Machine.Reference

/-! ### FINISH's blocks (R204, R224) -/

/-- One block of the padding stage with HOLD = 0. -/
theorem Padding.block {len j : Nat} {l : List Byte} {e : Engine} (h : Padding len j l e)
    (hphase : e.phase = .pad) (hhold : e.hold = false) (hfill : e.fill.toNat < 64)
    (hl : 64 ≤ l.length) :
    ∃ n e', microSteps n e = .ok e' ∧
      Padding len (j + (64 - e.fill.toNat)) (l.drop 64) e' ∧ e'.fill = 0#7 ∧
      e'.phase = (if l.length = 64 then .done else .pad) ∧ e'.H = compress e.H (firstBlock l) ∧
      e'.blkcnt = e.blkcnt + 1#64 ∧ e'.L = e.L ∧ e'.hold = false := by
  obtain ⟨e₁, hrun₁, h₁, hphase₁, hfill₁, hblk₁, hlast₁, hsame⟩ := h.fills hphase hfill hl
  obtain ⟨hH, hL, hcount, hhold₁⟩ := hsame.message_eq
  rw [hhold] at hhold₁
  obtain ⟨_, _, _, _, hrun₂⟩ := microSteps_block hphase₁
  refine ⟨_, _, (microSteps_add 114 hrun₁).trans hrun₂, ?padding, rfl, ?phase, ?hash, ?count, hL,
    hhold₁⟩
  case padding => exact {
    padst := h₁.padst
    fill := by simpa [hfill₁] using h₁.fill
    lbits := h₁.lbits
    buffered := .of_empty rfl
    rest := by simpa [hfill₁] using h₁.rest }
  case phase =>
    have hnone : e₁.padst ≠ .none := h₁.padst ▸ padPosition_ne_none _ _
    simp [phaseAfterBlock, hhold₁, hnone, hlast₁]
  case hash => simp only [hH, hblk₁]
  case count => simp only [hcount]

/-- The padding stage goes on to DONE through all blocks of the list. -/
theorem Padding.finishes {len m : Nat} {l : List Byte} (hl : l.length = 64 * (m + 1)) {j : Nat}
    {e : Engine} (h : Padding len j l e) (hphase : e.phase = .pad) (hhold : e.hold = false)
    (hfill : e.fill.toNat < 64) :
    ∃ n e', microSteps n e = .ok e' ∧ e'.phase = .done ∧
      e'.H = (blocks (m + 1) l).foldl compress e.H ∧
      e'.blkcnt = e.blkcnt + BitVec.ofNat 64 (m + 1) ∧ e'.L = e.L ∧
      e'.lbits = BitVec.ofNat 64 (8 * len) := by
  induction m generalizing l j e with
  | zero =>
    obtain ⟨n, e', hrun, h', -, hphase', hH, hcount, hL, -⟩ :=
      h.block hphase hhold hfill (by omega)
    rw [if_pos (by omega)] at hphase'
    exact ⟨n, e', hrun, hphase', hH, hcount, hL, h'.lbits⟩
  | succ m ih =>
    obtain ⟨n₁, e₁, hrun₁, h₁, hfill₁, hphase₁, hH₁, hcount₁, hL₁, hhold₁⟩ :=
      h.block hphase hhold hfill (by omega)
    rw [if_neg (by omega)] at hphase₁
    obtain ⟨n, e', hrun, hphase', hH, hcount, hL, hlbits⟩ :=
      ih (by rw [List.length_drop]; omega) h₁ hphase₁ hhold₁ (by rw [hfill₁]; decide)
    refine ⟨n₁ + n, e', (microSteps_add n hrun₁).trans hrun, hphase', ?_, ?_, hL.trans hL₁, hlbits⟩
    · rw [hH, hH₁]
      rfl
    · rw [hcount, hcount₁, BitVec.add_assoc, ← BitVec.ofNat_add, Nat.add_comm 1]

/-! ### The absorbed bytes (R172, R206) -/

/-- READY with HOLD = 0 after INIT and the bytes `msg`: `q` whole blocks are compressed, and the
buffer holds the bytes behind them. -/
structure Absorbed (msg : List Byte) (q : Nat) (e : Engine) : Prop where
  phase    : e.phase = .ready
  hold     : e.hold = false
  padst    : e.padst = .none
  length   : e.L.toNat = msg.length
  fill     : 64 * q + e.fill.toNat = msg.length
  fill_lt  : e.fill.toNat < 64
  hash     : e.H = (blocks q msg).foldl compress Rom.iv
  count    : e.blkcnt = BitVec.ofNat 64 q
  buffered : Buffered (msg.drop (64 * q)) e

theorem Absorbed.initialise (e : Engine) (kreq : BitVec 8) :
    Absorbed [] 0 (e.initialise kreq false) where
  phase := rfl
  hold := rfl
  padst := rfl
  length := rfl
  fill := rfl
  fill_lt := by rw [Engine.initialise_fill]; decide
  hash := rfl
  count := rfl
  buffered := .of_empty rfl

/-- DONE with the digest of `msg`, its length, its bit length and its padded block count. -/
structure Digested (msg : List Byte) (e : Engine) : Prop where
  phase  : e.phase = .done
  hash   : e.H = digest msg
  length : e.L = BitVec.ofNat 64 msg.length
  lbits  : e.lbits = BitVec.ofNat 64 (8 * msg.length)
  count  : e.blkcnt = BitVec.ofNat 64 (blockCount msg.length)

section Message

variable {msg : List Byte} {q : Nat} {e : Engine}

theorem Absorbed.length_tail (h : Absorbed msg q e) :
    (msg.drop (64 * q)).length = e.fill.toNat := by
  have := h.fill
  rw [List.length_drop]
  omega

theorem Absorbed.drop_concat (h : Absorbed msg q e) (b : Byte) :
    (msg ++ [b]).drop (64 * q) = msg.drop (64 * q) ++ [b] := by
  have := h.fill
  exact List.drop_append_of_le_length (by omega)

/-- The engine an ABSORB leaves in READY (R172). -/
def Engine.absorbed (e : Engine) (b : Byte) (hfill : e.fill.toNat < 64) : Engine :=
  { e with
    blk := e.blk.set e.fill.toNat b hfill
    fill := e.fill + 1#7
    L := e.L + 1#64
    phase := if e.fill.toNat = 63 then .slice else .ready }

theorem Absorbed.buffered_absorbed (h : Absorbed msg q e) (b : Byte) :
    Buffered ((msg ++ [b]).drop (64 * q)) (e.absorbed b h.fill_lt) := by
  have hsucc := Safety.toNat_succ_of_le e.fill h.fill_lt.le
  rw [h.drop_concat]
  refine (h.buffered.append h.length_tail.ge [b]).store h.fill_lt ?_ rfl hsucc
  rw [← h.length_tail, List.getElem?_concat_length]

/-- The next byte is in the buffer, or ends a block, which the engine compresses. -/
theorem Absorbed.absorb (h : Absorbed msg q e) (b : Byte) (hmax : e.L.toNat + 1 < 2 ^ 64) :
    ∃ n e' q', microSteps n (e.absorbed b h.fill_lt) = .ok e' ∧ Absorbed (msg ++ [b]) q' e' := by
  have hfill := h.fill
  have hlen : (msg ++ [b]).length = msg.length + 1 := List.length_append
  have hL : (e.L + 1#64).toNat = (msg ++ [b]).length := by
    rw [hlen, ← h.length]
    bv_omega
  have hblocks : blocks q (msg ++ [b]) = blocks q msg := blocks_append (by omega) [b]
  have hbuffered := h.buffered_absorbed b
  by_cases hfull : e.fill.toNat = 63
  case neg =>
    have hsucc := Safety.toNat_succ_of_le e.fill h.fill_lt.le
    refine ⟨0, _, q, rfl, ?_⟩
    exact {
      phase := if_neg hfull
      hold := h.hold
      padst := h.padst
      length := hL
      fill := by rw [hlen, Engine.absorbed, hsucc]; omega
      fill_lt := by have := h.fill_lt; rw [Engine.absorbed, hsucc]; omega
      hash := hblocks ▸ h.hash
      count := h.count
      buffered := hbuffered }
  case pos =>
    have h64 : (e.absorbed b h.fill_lt).fill = 64#7 := (fill_succ_eq_iff e.fill).2 hfull
    obtain ⟨_, _, _, _, hrun⟩ := microSteps_block (e := e.absorbed b h.fill_lt) (if_pos hfull)
    refine ⟨114, _, q + 1, hrun, ?_⟩
    exact {
      phase := by simp [Engine.absorbed, phaseAfterBlock, h.padst, h.hold]
      hold := h.hold
      padst := h.padst
      length := hL
      fill := by simp only [hlen, BitVec.toNat_ofNat, Nat.zero_mod]; omega
      fill_lt := by simp only [BitVec.toNat_ofNat]; decide
      hash := by
        rw [blocks_add, hblocks, List.foldl_append, ← h.hash, hbuffered.blk_eq h64]
        rfl
      count := by rw [Nat.add_comm, BitVec.ofNat_add, ← h.count, BitVec.add_comm]; rfl
      buffered := .of_empty rfl }

/-- From FINISH the engine goes on to DONE with the message's digest (R244). -/
theorem Absorbed.finish (h : Absorbed msg q e) :
    ∃ n e', microSteps n { e with lbits := bitLength e.L, padst := .mark, phase := .pad } = .ok e' ∧
      Digested msg e' := by
  have hfill := h.fill
  have hlt := h.fill_lt
  have hq : q = msg.length / 64 := by omega
  have htail := h.length_tail
  have hpadding := Padding.of_finish htail h.buffered (by rw [h.length]; omega)
  have hL : e.L = BitVec.ofNat 64 msg.length := by
    rw [← h.length, BitVec.ofNat_toNat, BitVec.setWidth_eq]
  rw [h.length] at hpadding
  have hblocks := length_append_padding (len := msg.length) (htail ▸ hlt) (by omega)
  obtain ⟨m, hm⟩ : ∃ m, finishBlocks msg.length = m + 1 := by
    unfold finishBlocks
    split <;> exact ⟨_, rfl⟩
  rw [hm] at hblocks
  obtain ⟨n, e', hrun, hphase, hH, hcount, hL', hlbits⟩ :=
    hpadding.finishes hblocks rfl h.hold hlt
  refine ⟨n, e', hrun, hphase, ?hash, hL'.trans hL, hlbits, ?count⟩
  case hash => rw [hH, digest_eq, hm, ← hq, ← h.hash]
  case count =>
    rw [hcount, blockCount_eq, hm, ← hq, BitVec.ofNat_add q]
    exact congrArg (· + _) h.count

end Message

end Sys2Proof.Machine
end

section
/-!
PROOF. The digest driver on the machine (spec/41_commands.md, preamble; spec/44_digest_output.md R244):
whatever the schedule, the engine comes through its busy phases with the host's next command waiting,
so the machine carries INIT, the message's bytes and FINISH on to DONE. This settles O55.
-/

namespace Sys2Proof.Safety

open Sys2Proof.Machine

/-- Every engine of the invariant comes to an idle phase (R312): by induction on the bound. -/
theorem EngineInv.comes_idle {e : Engine} (h : EngineInv e) :
    ∃ n e', n ≤ stepsLeft e ∧ microSteps n e = .ok e' ∧ e'.phase.busy = false := by
  induction hk : stepsLeft e using Nat.strong_induction_on generalizing e with
  | _ k ih =>
    subst hk
    cases hb : e.phase.busy with
    | false => exact ⟨0, e, Nat.zero_le _, rfl, hb⟩
    | true =>
      obtain ⟨e₁, he⟩ := h.microStep_ok hb
      have hm := microStep_moves he
      have hlt := h.stepsLeft_lt hm
      obtain ⟨n, e', hn, hrun, hidle⟩ := ih _ hlt (h.of_moves hm) rfl
      refine ⟨n + 1, e', by omega, ?_, hidle⟩
      simp only [microSteps, he, hrun]

/-- A run in two parts. -/
theorem run_add {m : Nat} (n : Nat) {s s₁ : State} (h : Host.Core.run core m s = .next s₁) :
    Host.Core.run core (m + n) s = Host.Core.run core n s₁ := by
  induction m generalizing s with
  | zero => cases h; rw [Nat.zero_add]
  | succ m ih =>
    rw [Nat.succ_add]
    cases hs : step s with
    | next s' => exact (run_succ _ hs).trans (ih ((run_succ m hs).symm.trans h))
    | fault | refused =>
      have hs : core.step s = _ := hs
      simp [Host.Core.run, hs] at h

end Sys2Proof.Safety

namespace Sys2Proof.Claims

open Sys2Proof.Machine Sys2Proof.Safety

/-! ### Where a run without a reset arrives -/

/-- A run from `s` ends with an engine of `Q` and the host operations `p` left, and no reset ahead. -/
def Arrives (s : State) (Q : Engine → Prop) (p : List HostOp) : Prop :=
  ∃ n s', Host.Core.run core n s = .next s' ∧ Q s'.eng ∧ s'.program = p ∧ NoReset s'.turns

section Arrives

variable {s s₁ : State} {Q Q' : Engine → Prop} {p p' : List HostOp}

theorem Arrives.refl (hQ : Q s.eng) (hp : s.program = p) (hn : NoReset s.turns) : Arrives s Q p :=
  ⟨0, s, rfl, hQ, hp, hn⟩

theorem Arrives.head (hs : step s = .next s₁) (h : Arrives s₁ Q p) : Arrives s Q p := by
  obtain ⟨n, s', hrun, hs'⟩ := h
  exact ⟨n + 1, s', (run_succ n hs).trans hrun, hs'⟩

theorem Arrives.trans (h : Arrives s Q p)
    (h' : ∀ s₁ : State, Q s₁.eng → s₁.program = p → NoReset s₁.turns → Arrives s₁ Q' p') :
    Arrives s Q' p' := by
  obtain ⟨m, s₁, hrun, hQ, hp, hn⟩ := h
  obtain ⟨n, s', hrun', hs'⟩ := h' s₁ hQ hp hn
  exact ⟨m + n, s', (run_add n hrun).trans hrun', hs'⟩

end Arrives

/-! ### Micro-steps with the host at the port (R91, R92) -/

/-- The host can only wait for a busy engine: its program is over, or a CMD write is next. -/
def AtPort (p : List HostOp) : Prop := p = [] ∨ ∃ c rest, p = .write cmdOffset 4 c :: rest

theorem atPort_issue (i : Instr) (p : List HostOp) : AtPort (HostOp.issue i :: p) :=
  .inr ⟨encode i, p, rfl⟩

theorem atPort_absorbBytes (bytes : List Byte) (i : Instr) (p : List HostOp) :
    AtPort (absorbBytes bytes ++ HostOp.issue i :: p) := by
  cases bytes <;> exact atPort_issue _ _

theorem busy_of_microStep {e e' : Engine} (h : microStep e = .ok e') : e.phase.busy = true := by
  by_contra hb
  rw [microStep_idle (by simpa using hb)] at h
  cases h

section Port

variable {s : State} {e : Engine} {Q : Engine → Prop} {p : List HostOp}

/-- The engine's own turn takes the micro-step. -/
theorem Arrives.of_engineTurn (hn : NoReset s.turns) (he : microStep s.eng = .ok e)
    (hs : step s = engineTurn s.takeTurn) : Arrives s (· = e) s.program :=
  .head (hs.trans (engineTurn_ok (s := s.takeTurn) he)) (.refl rfl rfl (noReset_tail hn))

/-- The micro-step comes with this step, or with the next one, once the write stands held. -/
theorem arrives_microStep (hn : NoReset s.turns) (hp : AtPort s.program)
    (he : microStep s.eng = .ok e) : Arrives s (· = e) s.program := by
  have hb := busy_of_microStep he
  have hr := turn_ne_reset hn
  obtain hp | ⟨c, rest, hp⟩ := hp
  case inl =>
    refine .of_engineTurn hn he (step_of_busy hb ?_)
    cases ht : s.turn with
    | reset => exact absurd ht hr
    | engine => exact .inl rfl
    | host => exact .inr ⟨rfl, by simp [State.hostFree, hp]⟩
  case inr =>
    obtain ⟨-, hs⟩ | hs := step_cmdWrite_busy hr hp hb
    · have hn' := noReset_tail hn
      obtain ⟨hheld, -⟩ | hs' := step_cmdWrite_busy (s := { s.takeTurn with held := true })
        (turn_ne_reset hn') hp hb
      · cases hheld
      · exact .head hs (.of_engineTurn hn' he hs')
    · exact .of_engineTurn hn he hs

/-- So the engine comes through any run of micro-steps. -/
theorem arrives_microSteps {n : Nat} (hn : NoReset s.turns) (hp : AtPort p)
    (hprog : s.program = p) (hrun : microSteps n s.eng = .ok e) (hQ : Q e) : Arrives s Q p := by
  induction n generalizing s with
  | zero =>
    cases hrun
    exact .refl hQ hprog hn
  | succ n ih =>
    rw [microSteps] at hrun
    cases he : microStep s.eng with
    | error => simp [he] at hrun
    | ok e₁ =>
      simp only [he] at hrun
      refine (arrives_microStep hn (hprog ▸ hp) he).trans fun s₁ he₁ hp₁ hn₁ => ?_
      exact ih hn₁ (hp₁.trans hprog) (he₁ ▸ hrun)

/-! ### The driver's commands -/

/-- An idle engine accepts the next command, and comes through the micro-steps it starts. -/
theorem arrives_issue {n : Nat} {i : Instr} {e' : Engine} (hi : Idle s) (hn : NoReset s.turns)
    (hprog : s.program = HostOp.issue i :: p) (hp : AtPort p)
    (hexec : exec i (afterAccess s p .done) = .next { afterAccess s p .done with eng := e })
    (hrun : microSteps n e = .ok e') (hQ : Q e') : Arrives s Q p := by
  have hs := stepRunsTheDecodedCommand s _ p i (turn_ne_reset hn) hi hprog (decode_encode i)
  exact .head (hs.trans hexec) (arrives_microSteps (s := { afterAccess s p .done with eng := e })
    (noReset_tail hn) hp rfl hrun hQ)

/-- READY after INIT and the bytes `msg`. -/
def HasAbsorbed (msg : List Byte) (e : Engine) : Prop := ∃ q, Absorbed msg q e

/-- INIT is accepted wherever the engine stands: a busy one comes to an idle phase first. -/
theorem arrives_init {kreq : BitVec 8} (h : Inv s) (hn : NoReset s.turns) (hp : AtPort p)
    (hprog : s.program = HostOp.issue (.init kreq false) :: p) :
    Arrives s (HasAbsorbed []) p := by
  obtain ⟨n, e, -, hrun, hidle⟩ := h.engine.comes_idle
  refine (arrives_microSteps (Q := (·.phase.busy = false)) hn (atPort_issue _ p) hprog hrun
    hidle).trans fun s₁ hidle₁ hp₁ hn₁ => ?_
  have hi : Idle s₁ := (Phase.idle_iff _).1 hidle₁
  exact arrives_issue hi hn₁ hp₁ hp (exec_init (s := afterAccess s₁ p .done) hi kreq false)
    (microSteps_zero _) ⟨0, .initialise s₁.eng kreq⟩

/-- One ABSORB, and the block it may end. -/
theorem arrives_absorb {msg : List Byte} {b : Byte} (h : HasAbsorbed msg s.eng)
    (hmax : msg.length + 1 < 2 ^ 61) (hn : NoReset s.turns) (hp : AtPort p)
    (hprog : s.program = HostOp.issue (.absorb b) :: p) :
    Arrives s (HasAbsorbed (msg ++ [b])) p := by
  obtain ⟨q, h⟩ := h
  have hlen := h.length
  have hne : s.eng.L.toNat ≠ 2 ^ 61 - 1 := by omega
  obtain ⟨n, e, q', hrun, h'⟩ := h.absorb b (by omega)
  exact arrives_issue (.inl h.phase) hn hprog hp
    (exec_absorb_ready (s := afterAccess s p .done) b h.fill_lt h.phase hne) hrun ⟨q', h'⟩

/-- The whole message, byte by byte. -/
theorem arrives_absorbBytes {bytes msg : List Byte} (h : HasAbsorbed msg s.eng)
    (hmax : (msg ++ bytes).length < 2 ^ 61) (hn : NoReset s.turns) (i : Instr)
    (hprog : s.program = absorbBytes bytes ++ HostOp.issue i :: p) :
    Arrives s (HasAbsorbed (msg ++ bytes)) (HostOp.issue i :: p) := by
  induction bytes generalizing s msg with
  | nil => exact .refl (by simpa using h) hprog hn
  | cons b bytes ih =>
    have hlen : msg.length + 1 < 2 ^ 61 := by
      rw [List.length_append, List.length_cons] at hmax
      omega
    rw [List.append_cons] at hmax ⊢
    refine (arrives_absorb h hlen hn (atPort_absorbBytes bytes i p) hprog).trans
      fun s₁ h₁ hp₁ hn₁ => ?_
    exact ih h₁ hmax hn₁ hp₁

/-- FINISH and its padding blocks. -/
theorem arrives_finish {msg : List Byte} (h : HasAbsorbed msg s.eng) (hn : NoReset s.turns)
    (hp : AtPort p) (hprog : s.program = HostOp.issue .finish :: p) :
    Arrives s (Digested msg) p := by
  obtain ⟨q, h⟩ := h
  obtain ⟨n, e, hrun, hdigest⟩ := h.finish
  exact arrives_issue (.inl h.phase) hn hprog hp
    (exec_finish_ready (s := afterAccess s p .done) h.phase) hrun hdigest

end Port

/-- Settles O55: the driver's commands one after the other, each with the micro-steps it starts. -/
theorem machineComputesTheDigest : Obligations.MachineComputesTheDigest := by
  intro s kreq msg h hn hlen hprog
  have hfirst := atPort_absorbBytes msg .finish []
  have harrives : Arrives s (Digested msg) [] := by
    refine (arrives_init h hn hfirst hprog).trans fun s₁ h₁ hp₁ hn₁ => ?_
    refine (arrives_absorbBytes h₁ hlen hn₁ .finish hp₁).trans fun s₂ h₂ hp₂ hn₂ => ?_
    exact arrives_finish h₂ hn₂ (.inl rfl) hp₂
  obtain ⟨n, s', hrun, hd, hp, -⟩ := harrives
  exact ⟨n, s', hrun, hd.phase, hp, hd.hash, hd.length, hd.lbits, hd.count⟩

end Sys2Proof.Claims
end

section
/-!
PROOF. The block micro-steps as equations: SCHED (spec/43_schedule_compression.md R220), ROUND with
its record (R221, R222) and FINAL (R224). This settles O21, O22 and O23.
-/

namespace Sys2Proof.Machine

theorem eq_sixtyThree_iff (t : BitVec 7) : t = 63#7 ↔ t.toNat = 63 := BitVec.toNat_inj.symm

theorem schedStep_of_ne {e : Engine} (h : 16 ≤ e.t.toNat ∧ e.t.toNat < 64) (hlast : e.t ≠ 63#7) :
    schedStep e = .ok { e with W := setScheduleWord e.W e.t.toNat h, t := e.t + 1#7 } := by
  rw [schedStep, dif_pos h, if_neg hlast]

theorem schedStep_of_eq {e : Engine} (h : 16 ≤ e.t.toNat ∧ e.t.toNat < 64) (hlast : e.t = 63#7) :
    schedStep e = .ok { e with
      W := setScheduleWord e.W e.t.toNat h, V := e.H, t := 0#7, phase := .round } := by
  rw [schedStep, dif_pos h, if_pos hlast]

/-- A round is recorded when it is below RECK in the first block (R222). -/
theorem lt_kEff_iff (e : Engine) : e.t < e.kEff ↔ e.first = true ∧ e.t.toNat < e.reck.toNat := by
  cases hfirst : e.first with
  | true => simp [kEff_of_first hfirst, BitVec.lt_def]
  | false => simp [not_lt_kEff hfirst]

end Sys2Proof.Machine

namespace Sys2Proof.Claims

open Sys2Proof.Machine

/-- Settles O21: SCHED's word is the recurrence's, and the others are kept. -/
theorem schedStepComputesOneWord : Obligations.SchedStepComputesOneWord := by
  intro e h hphase
  exact ⟨setScheduleWord e.W e.t.toNat h, setScheduleWord_self e.W e.t.toNat h,
    fun i hi hne => setScheduleWord_of_ne e.W e.t.toNat h i hi hne,
    fun hlast => (microStep_sched hphase).trans
      (schedStep_of_ne h (mt (eq_sixtyThree_iff e.t).1 hlast)),
    fun hlast => (microStep_sched hphase).trans
      (schedStep_of_eq h ((eq_sixtyThree_iff e.t).2 hlast))⟩

/-- Settles O22: the round's equation, with and without the record. -/
theorem roundStepMixesAndRecords : Obligations.RoundStepMixesAndRecords := by
  intro e h hphase t1 t2 v ht1 ht2 hv
  have hT1 : roundT1 e.V Rom.k[e.t.toNat] e.W[e.t.toNat] = t1 := ht1.symm
  have hT2 : roundT2 e.V = t2 := ht2.symm
  have hV : roundVars e.V t1 t2 = v := hv.symm
  have hstep := (microStep_round hphase).trans (roundStep_of_lt h)
  simp only [hT1, hT2, hV, hphase, eq_sixtyThree_iff, lt_kEff_iff] at hstep
  refine ⟨fun hrec => ?_, fun hrec => ?_⟩
  · simp only [hstep, if_pos hrec, roundRecord]
  · simp only [hstep, if_neg hrec]

/-- Settles O23: FINAL's equation, and the phase by the cases of PADST and HOLD. -/
theorem finalStepAddsAndChoosesThePhase : Obligations.FinalStepAddsAndChoosesThePhase := by
  intro e hphase
  refine ⟨addWords e.H e.V, phaseAfterBlock e.padst e.hold, microStep_final hphase,
    addWords_getElem e.H e.V, fun hlast => ?done, fun hlast hhold => ?held,
    fun hlast hhold hnone => ?pad, fun hnone hhold => ?ready⟩
  case done => simp [phaseAfterBlock, hlast]
  case held => simp [phaseAfterBlock, hlast, hhold]
  case pad => simp [phaseAfterBlock, hlast, hhold, hnone]
  case ready => simp [phaseAfterBlock, hnone, hhold]

end Sys2Proof.Claims
end

section
/-!
PROOF. What a whole block leaves (spec/43_schedule_compression.md R222 to R227): the engine is busy
throughout, and the recorder holds the leading rounds. This settles O48 and O49.
-/

namespace Sys2Proof.Machine

open Sys2Proof.Machine.Reference

/-! ### Busy throughout a run (R31, R227) -/

/-- Every micro-step of a run starts in a busy phase, since an idle one has none. -/
theorem microSteps_busy_before {m n : Nat} {e e' : Engine} (hrun : microSteps m e = .ok e')
    (hn : n < m) : ∃ e₁, microSteps n e = .ok e₁ ∧ e₁.phase.busy = true := by
  induction m generalizing n e with
  | zero => omega
  | succ m ih =>
    rw [microSteps] at hrun
    split at hrun
    next e₁ hstep =>
      cases n with
      | zero => exact ⟨e, rfl, Claims.busy_of_microStep hstep⟩
      | succ n =>
        simp only [microSteps, hstep]
        exact ih hrun (by omega)
    next => cases hrun

/-- A run that goes on by one is the run and the micro-step behind it. -/
theorem microStep_of_microSteps_succ {n : Nat} {e e₁ e₂ : Engine} (h : microSteps n e = .ok e₁)
    (h₁ : microSteps (n + 1) e = .ok e₂) : microStep e₁ = .ok e₂ := by
  rw [microSteps_add 1 h] at h₁
  unfold microSteps at h₁
  split at h₁
  next e' hstep => exact hstep.trans h₁
  next => cases h₁

/-! ### The records of a block (R43, R222) -/

/-- The record of round `j` of the block that starts in `e` (R43). -/
def blockRecord (e : Engine) (j : Nat) (hj : j < 64) : RoundRecord :=
  ⟨BitVec.ofNat 32 j, (schedule e.blk)[j], Rom.k[j],
    roundT1 (varsAfter (schedule e.blk) e.H j) Rom.k[j] (schedule e.blk)[j],
    roundT2 (varsAfter (schedule e.blk) e.H j), varsAfter (schedule e.blk) e.H (j + 1)⟩

/-- The recorder in `e'`, after `n` rounds of the block that starts in `e`: it holds the rounds below
`k_eff`, RECCNT counts them, and all else is as it was. -/
structure Recorded (e : Engine) (n : Nat) (e' : Engine) : Prop where
  entry : ∀ (j : Nat) (hj : j < 64), e'.records[j] =
    if j < n ∧ j < e.kEff.toNat then blockRecord e j hj else e.records[j]
  count : e'.reccnt =
    if min n e.kEff.toNat = 0 then e.reccnt else BitVec.ofNat 7 (min n e.kEff.toNat)

/-- Round `n` records itself just when it is below `k_eff`. -/
theorem Recorded.succ {e e₁ e₂ : Engine} {n : Nat} (h : Recorded e n e₁) (hn : n < 64)
    (hrecords : e₂.records =
      if n < e.kEff.toNat then e₁.records.set n (blockRecord e n hn) hn else e₁.records)
    (hreccnt : e₂.reccnt = if n < e.kEff.toNat then BitVec.ofNat 7 (n + 1) else e₁.reccnt) :
    Recorded e (n + 1) e₂ := by
  by_cases hlt : n < e.kEff.toNat
  · rw [if_pos hlt] at hrecords hreccnt
    refine ⟨fun j hj => ?_, ?_⟩
    · by_cases hjn : n = j
      · subst hjn
        simp [hrecords, hlt]
      · have hiff : j < n + 1 ↔ j < n := by omega
        simp only [hrecords, Vector.getElem_set_ne _ _ hjn, h.entry j hj, hiff]
    · rw [hreccnt, Nat.min_eq_left hlt, if_neg n.succ_ne_zero]
  · rw [if_neg hlt] at hrecords hreccnt
    refine ⟨fun j hj => ?_, ?_⟩
    · have hiff : (j < n + 1 ∧ j < e.kEff.toNat) ↔ (j < n ∧ j < e.kEff.toNat) := by omega
      simp only [hrecords, h.entry j hj, hiff]
    · have hmin : min (n + 1) e.kEff.toNat = min n e.kEff.toNat := by omega
      rw [hreccnt, h.count, hmin]

/-- What round `n` does to the recorder (R222). -/
theorem microStep_round_recorder {e e' : Engine} {n : Nat} (hstep : microStep e = .ok e')
    (hphase : e.phase = .round) (ht : e.t = BitVec.ofNat 7 n) (hn : n < 64) :
    e'.records = (if n < e.kEff.toNat then
      e.records.set n ⟨BitVec.ofNat 32 n, e.W[n], Rom.k[n], roundT1 e.V Rom.k[n] e.W[n],
        roundT2 e.V, roundVars e.V (roundT1 e.V Rom.k[n] e.W[n]) (roundT2 e.V)⟩ hn
      else e.records) ∧
    e'.reccnt = if n < e.kEff.toNat then BitVec.ofNat 7 (n + 1) else e.reccnt := by
  have htn : e.t.toNat = n := by rw [ht, BitVec.toNat_ofNat, Nat.mod_eq_of_lt (by omega)]
  have hsucc : e.t + 1#7 = BitVec.ofNat 7 (n + 1) := by bv_omega
  have hindex : e.t.setWidth 32 = BitVec.ofNat 32 n := by bv_omega
  cases (roundStep_of_lt (htn ▸ hn)).symm.trans (microStep_round hphase ▸ hstep)
  simp only [htn, hsucc, hindex, roundRecord, BitVec.lt_def, and_self]

/-- The first `n` rounds of a block record those of them that are below `k_eff`. -/
theorem recorded_microSteps {e e' : Engine} (hphase : e.phase = .slice) {n : Nat} (hn : n ≤ 64)
    (hrun : microSteps (49 + n) e = .ok e') : Recorded e n e' := by
  induction n generalizing e' with
  | zero =>
    cases (microSteps_schedule hphase).symm.trans hrun
    exact ⟨fun j hj => by simp, by simp⟩
  | succ n ih =>
    obtain ⟨t1, t2, records, reccnt, hrun₁⟩ := microSteps_round hphase (n := n) (by omega)
    have hrecorded := ih (by omega) hrun₁
    rw [if_neg (by omega)] at hrun₁ hrecorded
    have hstep := microStep_of_microSteps_succ hrun₁ hrun
    obtain ⟨hrecords, hreccnt⟩ := microStep_round_recorder hstep rfl rfl (n := n) (by omega)
    refine hrecorded.succ (by omega) ?_ hreccnt
    rw [blockRecord, varsAfter_succ (schedule e.blk) e.H (by omega)]
    exact hrecords

/-- What a block leaves in the recorder: FINAL does not touch it. -/
theorem recorded_block {e : Engine} (hphase : e.phase = .slice) :
    ∃ e', microSteps 114 e = .ok e' ∧ Recorded e 64 e' := by
  obtain ⟨t1, t2, records, reccnt, hrun⟩ := microSteps_round hphase (n := 64) (by decide)
  obtain ⟨hentry, hcount⟩ := recorded_microSteps hphase (n := 64) (by decide) hrun
  exact ⟨_, microSteps_snoc hrun (microStep_final rfl), hentry, hcount⟩

end Sys2Proof.Machine

namespace Sys2Proof.Claims

open Sys2Proof.Machine Sys2Proof.Machine.Reference

/-- Settles O48: the block's run as one equation, and a run is busy before each of its micro-steps. -/
theorem blockComputesTheCompressionFunction : Obligations.BlockComputesTheCompressionFunction := by
  intro e hphase
  obtain ⟨t1, t2, records, reccnt, hrun⟩ := microSteps_block hphase
  exact ⟨fun n hn => microSteps_busy_before hrun hn, _, hrun, rfl, rfl, rfl, rfl, rfl, rfl, rfl,
    rfl, rfl, rfl, rfl, rfl, rfl, rfl⟩

/-- Settles O49: `k_eff` is RECK in the first block and 0 behind it. -/
theorem blockRecordsItsLeadingRounds : Obligations.BlockRecordsItsLeadingRounds := by
  intro e hphase
  obtain ⟨e', hrun, hrecorded⟩ := recorded_block hphase
  refine ⟨e', hrun, fun hfirst hle => ?first, fun hfirst => ?later⟩
  case first =>
    have hk : e.kEff = e.reck := kEff_of_first hfirst
    refine ⟨fun hne => ?_, fun j hj => ⟨fun hlt => ?_, fun hge => ?_⟩⟩
    · have hpos : e.reck.toNat ≠ 0 := fun h0 => hne (BitVec.eq_of_toNat_eq h0)
      rw [hrecorded.count, hk, Nat.min_eq_right hle, if_neg hpos, BitVec.ofNat_toNat,
        BitVec.setWidth_eq]
    · rw [hrecorded.entry j hj, if_pos ⟨hj, hk ▸ hlt⟩]
      rfl
    · rw [hrecorded.entry j hj, if_neg (by rw [hk]; omega)]
  case later =>
    have hk : e.kEff.toNat = 0 := by simp [Engine.kEff, hfirst]
    refine ⟨Vector.ext fun j hj => ?_, ?_⟩
    · rw [hrecorded.entry j hj, if_neg (by omega)]
    · rw [hrecorded.count, if_pos (by omega)]

end Sys2Proof.Claims
end

section
/-!
PROOF. How long FINISH keeps the engine busy (spec/43_schedule_compression.md R227,
spec/70_reset_and_hazards.md R312): each block of the padding stage takes one PAD step for each byte
it lacks and 114 micro-steps. This settles O51.
-/

namespace Sys2Proof.Machine

open Sys2Proof.Machine.Reference

section Stage

variable {len j : Nat} {l : List Byte} {e : Engine}

/-- A full block gone, the padding goes on with the empty buffer. -/
theorem Padding.next_block {e' : Engine} (h : Padding len j l e) (hfull : e.fill = 64#7)
    (hfill : e'.fill = 0#7) (hpadst : e'.padst = e.padst) (hlbits : e'.lbits = e.lbits) :
    Padding len j (l.drop 64) e' where
  padst := hpadst.trans h.padst
  fill := by simpa [hfull, hfill] using h.fill
  lbits := hlbits.trans h.lbits
  buffered := .of_empty hfill
  rest := by simpa [hfull, hfill] using h.rest

/-- One block of the padding stage takes a PAD step for each byte it lacks and 114 micro-steps. -/
theorem Padding.block_steps (h : Padding len j l e) (hphase : e.phase = .pad)
    (hhold : e.hold = false) (hfill : e.fill.toNat < 64) (hl : 64 ≤ l.length) :
    ∃ e', microSteps (178 - e.fill.toNat) e = .ok e' ∧ (∃ j', Padding len j' (l.drop 64) e') ∧
      e'.fill = 0#7 ∧ e'.phase = (if l.length = 64 then .done else .pad) ∧
      e'.blkcnt = e.blkcnt + 1#64 ∧ e'.hold = false := by
  obtain ⟨e₁, hrun₁, h₁, hphase₁, hfull₁, -, hlast₁, hsame⟩ := h.fills hphase hfill hl
  obtain ⟨-, -, hcount₁, hhold₁⟩ := hsame.message_eq
  obtain ⟨t1, t2, records, reccnt, hrun₂⟩ := microSteps_block hphase₁
  have hsteps : 178 - e.fill.toNat = 64 - e.fill.toNat + 114 := by omega
  have hnone : e₁.padst ≠ .none := h₁.padst ▸ padPosition_ne_none _ _
  rw [hsteps, microSteps_add 114 hrun₁, hrun₂]
  refine ⟨_, rfl, ⟨_, h₁.next_block hfull₁ rfl rfl rfl⟩, rfl, ?phase, ?count, hhold₁.trans hhold⟩
  case phase => simp [phaseAfterBlock, hhold₁, hhold, hnone, hlast₁]
  case count => simp only [hcount₁]

/-- From PAD to DONE it is 178 micro-steps a block, less one for each byte in the buffer. -/
theorem Padding.finishes_steps {m : Nat} (h : Padding len j l e) (hl : l.length = 64 * (m + 1))
    (hphase : e.phase = .pad) (hhold : e.hold = false) (hfill : e.fill.toNat < 64) :
    ∃ e', microSteps (178 * (m + 1) - e.fill.toNat) e = .ok e' ∧ e'.phase = .done ∧
      e'.blkcnt = e.blkcnt + BitVec.ofNat 64 (m + 1) := by
  induction m generalizing j l e with
  | zero =>
    obtain ⟨e', hrun, -, -, hphase', hcount, -⟩ := h.block_steps hphase hhold hfill (by omega)
    exact ⟨e', hrun, hphase'.trans (if_pos hl), hcount⟩
  | succ m ih =>
    obtain ⟨e₁, hrun₁, ⟨j', h₁⟩, hfill₁, hphase₁, hcount₁, hhold₁⟩ :=
      h.block_steps hphase hhold hfill (by omega)
    rw [if_neg (by omega)] at hphase₁
    have h0 : e₁.fill.toNat = 0 := by rw [hfill₁]; rfl
    obtain ⟨e', hrun, hphase', hcount⟩ :=
      ih h₁ (by rw [List.length_drop]; omega) hphase₁ hhold₁ (by omega)
    have hsteps : 178 * (m + 1 + 1) - e.fill.toNat =
        178 - e.fill.toNat + (178 * (m + 1) - e₁.fill.toNat) := by omega
    refine ⟨e', ?_, hphase', ?_⟩
    · rw [hsteps, microSteps_add _ hrun₁, hrun]
    · rw [hcount, hcount₁, BitVec.add_assoc, ← BitVec.ofNat_add, Nat.add_comm 1]

end Stage

/-- The bytes in the block buffer, in order (R33, R39). -/
def Engine.bufferedBytes (e : Engine) : List Byte := e.blk.toList.take e.fill.toNat

theorem Engine.length_bufferedBytes {e : Engine} (hfill : e.fill.toNat < 64) :
    e.bufferedBytes.length = e.fill.toNat := by
  simp [bufferedBytes, hfill.le]

theorem Engine.buffered_bufferedBytes (e : Engine) : Buffered e.bufferedBytes e := by
  intro i hi hlt
  simp [bufferedBytes, hlt, hi]

end Sys2Proof.Machine

namespace Sys2Proof.Machine.Reference

/-! ### The count of R227 -/

theorem exists_finishBlocks_eq_succ (len : Nat) : ∃ m, finishBlocks len = m + 1 := by
  unfold finishBlocks
  split <;> exact ⟨_, rfl⟩

/-- R227's count is 178 micro-steps a block, less one for each byte of the message's last part. -/
theorem finishSteps_eq (len : Nat) : 9 + zeroCount len + 114 * finishBlocks len =
    178 * finishBlocks len - len % 64 := by
  have hlen := tail_add_padding len
  rw [length_padding] at hlen
  omega

/-- R312: the worst case is a last part of 56 bytes. -/
theorem finishSteps_le (len : Nat) : 9 + zeroCount len + 114 * finishBlocks len ≤ 300 := by
  rw [finishSteps_eq]
  unfold finishBlocks
  split <;> omega

end Sys2Proof.Machine.Reference

namespace Sys2Proof.Claims

open Sys2Proof.Machine Sys2Proof.Machine.Reference Sys2Proof.Safety

/-- Settles O51: FINISH stands in front of the padding, whose blocks take their micro-steps. -/
theorem finishReachesDoneInTheStatedSteps : Obligations.FinishReachesDoneInTheStatedSteps := by
  intro s s' h hphase hhold hexec
  cases (exec_finish_ready hphase).symm.trans hexec
  obtain ⟨hfill, hpad, -⟩ := h.engine.shape.ready hphase
  have hmod := h.engine.fill_mod hpad
  have hlt : s.eng.fill.toNat < 64 := by omega
  have htail := Engine.length_bufferedBytes hlt
  have hpadding := Padding.of_finish htail s.eng.buffered_bufferedBytes hmod
  have hblocks := length_append_padding (htail.symm ▸ hlt) (htail.symm ▸ hmod)
  obtain ⟨m, hm⟩ := exists_finishBlocks_eq_succ s.eng.L.toNat
  rw [hm] at hblocks
  obtain ⟨e, hrun, hdone, hcount⟩ := hpadding.finishes_steps hblocks rfl hhold hlt
  have hsteps : 178 * (m + 1) - s.eng.fill.toNat = 9 + zeroCount s.eng.L.toNat +
      114 * finishBlocks s.eng.L.toNat := by
    rw [finishSteps_eq, hm]
    omega
  rw [hsteps] at hrun
  exact ⟨finishSteps_le _, fun n hn => microSteps_busy_before hrun hn, e, hrun, hdone, hm ▸ hcount⟩

end Sys2Proof.Claims
end

section
/-!
PROOF. Nothing reads the recorder (spec/43_schedule_compression.md R222): each micro-step and each
command takes engines that differ in RECK, RECCNT and REC only to such engines. This settles O47.
-/

namespace Sys2Proof.Machine

open Sys2Proof.Claims

/-- The engine `e` with the recorder of `r`. -/
def Engine.withRecorderOf (e r : Engine) : Engine :=
  { e with reck := r.reck, reccnt := r.reccnt, records := r.records }

/-- The state `s` with the recorder of `r`, and the host's side of `r`. -/
def State.withRecorderOf (s r : State) : State := { r with eng := s.eng.withRecorderOf r.eng }

theorem State.withRecorderOf_eq {s r : State} (h : SameButRecorder s.eng r.eng) :
    s.withRecorderOf r = r :=
  congrArg (fun e => { r with eng := e }) h

/-! ### Micro-steps -/

/-- Whatever the recorder is, a micro-step does the same to all other elements. -/
theorem microStep_withRecorderOf {e e' : Engine} (h : microStep e = .ok e') (r : Engine) :
    ∃ e₂, microStep (e.withRecorderOf r) = .ok e₂ ∧ SameButRecorder e' e₂ := by
  cases microStep_moves h with
  | pad b p hphase hbyte hfill =>
    refine ⟨_, (microStep_pad (e := e.withRecorderOf r) hphase).trans
      (padStep_eq (e := e.withRecorderOf r) hbyte hfill), ?_⟩
    simp only [fill_succ_eq_iff]
    rfl
  | slice hphase => exact ⟨_, microStep_slice (e := e.withRecorderOf r) hphase, rfl⟩
  | sched hphase ht hlast =>
    exact ⟨_, (microStep_sched (e := e.withRecorderOf r) hphase).trans
      (schedStep_of_ne (e := e.withRecorderOf r) ht hlast), rfl⟩
  | schedLast hphase ht hlast =>
    exact ⟨_, (microStep_sched (e := e.withRecorderOf r) hphase).trans
      (schedStep_of_eq (e := e.withRecorderOf r) ht hlast), rfl⟩
  | round t1 t2 vars hphase ht ht1 ht2 hvars =>
    subst ht1 ht2 hvars
    exact ⟨_, (microStep_round (e := e.withRecorderOf r) hphase).trans
      (roundStep_of_lt (e := e.withRecorderOf r) ht), rfl⟩
  | final hphase => exact ⟨_, microStep_final (e := e.withRecorderOf r) hphase, rfl⟩

/-! ### Commands -/

/-- Whatever the recorder is, `f` does the same to all other elements of the engine. -/
def RecorderBlind (f : State → Host.Outcome State Fault Refusal) : Prop :=
  ∀ s s' r : State, f s = .next s' →
    ∃ s₂, f (s.withRecorderOf r) = .next s₂ ∧ SameButRecorder s'.eng s₂.eng

/-- A rule without a case of its own. -/
theorem RecorderBlind.next {g : State → State}
    (hg : ∀ s r, SameButRecorder (g s).eng (g (s.withRecorderOf r)).eng) :
    RecorderBlind fun s => .next (g s) := by
  intro s s' r h
  cases h
  exact ⟨_, rfl, hg s r⟩

/-- A choice by an element that is not the recorder's. -/
theorem RecorderBlind.ite {c : State → Prop} [DecidablePred c]
    {f g : State → Host.Outcome State Fault Refusal} (hc : ∀ s r, c (s.withRecorderOf r) ↔ c s)
    (hf : RecorderBlind f) (hg : RecorderBlind g) :
    RecorderBlind fun s => if c s then f s else g s := by
  intro s s' r h
  by_cases hs : c s
  · simp only [hc, if_pos hs] at h ⊢
    exact hf s s' r h
  · simp only [hc, if_neg hs] at h ⊢
    exact hg s s' r h

/-- Acceptance looks at PHASE only (R165). -/
theorem RecorderBlind.acceptCommand {i : Instr} {body : State → Host.Outcome State Fault Refusal}
    (h : RecorderBlind body) : RecorderBlind (acceptCommand i body) := by
  intro s s' r hs
  obtain ⟨hb, ⟨hl, hs⟩ | ⟨hl, he, rfl⟩ | ⟨hl, he, rfl⟩⟩ := acceptCommand_cases hs
  · rw [acceptCommand_legal (s := s.withRecorderOf r) hb hl]
    exact h s s' r hs
  · exact ⟨_, acceptCommand_error (s := s'.withRecorderOf r) he (he ▸ hl), rfl⟩
  · exact ⟨_, acceptCommand_protocol (s := s.withRecorderOf r) hb hl he, rfl⟩

theorem recorderBlind_absorb (b : Byte) : RecorderBlind (execAbsorb b) := by
  refine .acceptCommand (.ite (fun _ _ => .rfl) (.next fun _ _ => rfl) fun s s' r h => ?_)
  split at h
  next e he =>
    obtain ⟨hfill, rfl⟩ := Engine.appendByte_eq_some he
    cases h
    rw [Engine.appendByte_of_lt (e := (s.withRecorderOf r).eng) hfill]
    exact ⟨_, rfl, rfl⟩
  next => cases h

/-- No command reads the recorder. -/
theorem recorderBlind_exec (i : Instr) : RecorderBlind (exec i) := by
  cases i with
  | nop | init kreq hld | finish | resume | loadh i => exact .acceptCommand (.next fun _ _ => rfl)
  | absorb b => exact recorderBlind_absorb b
  | loadm i | compress =>
    exact .acceptCommand (.ite (fun _ _ => .rfl) (.next fun _ _ => rfl) (.next fun _ _ => rfl))

end Sys2Proof.Machine

namespace Sys2Proof.Claims

open Sys2Proof.Machine

/-- Settles O47: the second engine is the first with the second's recorder. -/
theorem recorderDoesNotDisturbTheEngine : Obligations.RecorderDoesNotDisturbTheEngine := by
  refine ⟨fun e₁ e₂ e₁' hsame h => ?step, fun i s₁ s₂ s₁' hsame h => ?command⟩
  case step => exact (hsame : e₁.withRecorderOf e₂ = e₂) ▸ microStep_withRecorderOf h e₂
  case command =>
    have hexec := recorderBlind_exec i s₁ s₁' s₂ h
    rwa [State.withRecorderOf_eq hsame] at hexec

end Sys2Proof.Claims
end

section
/-!
PROOF. The digest read back (spec/44_digest_output.md R240, R241): H stays as it is while PHASE is DONE
(O44), and eight reads in an idle phase answer it (O57).
-/

namespace Sys2Proof.Machine

/-- In DONE only INIT runs a rule of its own on the engine (R166); any other word is ignored or raises
an error. -/
theorem Answers.of_done {d : Decoded} {e e' : Engine} (h : Answers d e e') (hp : e.phase = .done) :
    (e'.H = e.H ∧ (e'.phase = .done ∨ e'.phase = .error)) ∨
    ∃ kreq hld, d = .command (.init kreq hld) := by
  cases h with
  | ignored => exact .inl ⟨rfl, .inl hp⟩
  | raised => exact .inl ⟨rfl, .inr rfl⟩
  | init _ kreq hld => exact .inr ⟨kreq, hld, rfl⟩
  | absorb _ _ hphase | finish _ hphase | resume _ hphase | loadh _ _ hphase | loadm _ _ hphase
  | compress _ hphase => cases hp.symm.trans hphase

end Sys2Proof.Machine

namespace Sys2Proof.Claims

open Sys2Proof.Machine Sys2Proof.Safety

/-- Settles O44: in DONE the engine has no move, so the step is the host's, and only an accepted INIT
reaches H. -/
theorem digestStaysWhileDone : Obligations.DigestStaysWhileDone := by
  intro s s' hp ht hs
  have hidle : Idle s := .inr (.inr (.inl hp))
  rw [step_of_idle ht hidle] at hs
  obtain he | ⟨v, rest, -, he⟩ | ⟨c, rest, hprog, -, ha⟩ := hostTurn_engine_cases hs
  · exact .inl ⟨by rw [he]; rfl, .inl (by rw [he]; exact hp)⟩
  · exact .inl ⟨by rw [he]; rfl, .inl (by rw [he]; exact hp)⟩
  · obtain hkeeps | ⟨kreq, hld, hd⟩ := ha.of_done hp
    · exact .inl hkeeps
    · exact .inr ⟨hidle, c, kreq, hld, rest, hprog, hd⟩

/-- Aligned reads in an idle phase answer the registers in order, a step each (R86, R88). -/
theorem run_reads {s : State} {offs : List (BitVec 13)} {rest : List HostOp} (hi : Idle s)
    (hn : NoReset s.turns) (ha : ∀ off ∈ offs, off.toNat % 4 = 0)
    (hp : s.program = offs.map (HostOp.read · 4) ++ rest) :
    ∃ s', Host.Core.run core offs.length s = .next s' ∧ s'.eng = s.eng ∧ s'.program = rest ∧
      s'.responses = s.responses ++ offs.map fun off => .data (readWindow s.eng off) := by
  induction offs generalizing s with
  | nil => exact ⟨s, rfl, rfl, hp, by simp⟩
  | cons off offs ih =>
    obtain ⟨hoff, hoffs⟩ := List.forall_mem_cons.1 ha
    have hs := readsHaveNoSideEffect s off _ ⟨turn_ne_reset hn, .inl hi⟩ hp hoff
    obtain ⟨s', hrun, heng, hrest, hresp⟩ :=
      ih (s := afterAccess s _ _) hi (noReset_tail hn) hoffs rfl
    exact ⟨s', (run_succ _ hs).trans hrun, heng, hrest, by simpa [afterAccess] using hresp⟩

theorem digestOffset_aligned (i : Nat) : (digestOffset i).toNat % 4 = 0 := by
  rw [digestOffset, BitVec.toNat_ofNat]
  omega

/-- The digest's eight registers hold H (R81). -/
theorem map_readWindow_digestOffset (e : Engine) :
    (List.range 8).map (fun i => readWindow e (digestOffset i)) = e.H.toList := by
  refine List.ext_getElem (by simp) fun i hi _ => ?_
  simpa [digestOffset] using readWindow_H e i (by simpa using hi)

/-- Settles O57: the eight reads are aligned, and answer the digest's registers. -/
theorem readDigestAnswersTheHashWords : Obligations.ReadDigestAnswersTheHashWords := by
  intro s rest hi hn hp
  have haligned : ∀ off ∈ (List.range 8).map digestOffset, off.toNat % 4 = 0 :=
    List.forall_mem_map.2 fun i _ => digestOffset_aligned i
  have hprog : s.program = ((List.range 8).map digestOffset).map (HostOp.read · 4) ++ rest := by
    rw [hp, readDigestOps, List.map_map]
    rfl
  obtain ⟨s', hrun, heng, hrest, hresp⟩ := run_reads hi hn haligned hprog
  refine ⟨s', hrun, heng, hrest, ?_⟩
  rw [hresp, ← map_readWindow_digestOffset, List.map_map, List.map_map]
  rfl

end Sys2Proof.Claims
end

section
/-!
PROOF. The digest driver with HOLD = 1 (spec/44_digest_output.md R244, spec/43_schedule_compression.md
R224): each block ends in HELD, or in DONE for the last one, and RESUME takes the engine to where it
stands with HOLD = 0. The host writes its RESUMEs at exactly these blocks. This settles O56.
-/

namespace Sys2Proof.Machine

open Sys2Proof.Machine.Reference

/-! ### Where a run of micro-steps ends (R31) -/

/-- A run ends at the first idle engine, so two runs to idle engines end at the same one. -/
theorem microSteps_idle_unique {m n : Nat} {e e₁ e₂ : Engine} (h₁ : microSteps m e = .ok e₁)
    (hidle₁ : e₁.phase.busy = false) (h₂ : microSteps n e = .ok e₂)
    (hidle₂ : e₂.phase.busy = false) : e₁ = e₂ := by
  obtain hlt | rfl | hlt := Nat.lt_trichotomy m n
  · obtain ⟨e', h', hbusy⟩ := microSteps_busy_before h₂ hlt
    cases h₁.symm.trans h'
    simp [hidle₁] at hbusy
  · cases h₁.symm.trans h₂
    rfl
  · obtain ⟨e', h', hbusy⟩ := microSteps_busy_before h₁ hlt
    cases h₂.symm.trans h'
    simp [hidle₂] at hbusy

/-! ### The engine with HOLD = 1 in a message (R172, R174, R224) -/

/-- The engine with HOLD = 0 in its place. -/
def Engine.unheld (e : Engine) : Engine := { e with hold := false }

/-- The engine after RESUME (R174). -/
def Engine.resumed (e : Engine) : Engine :=
  { e with phase := if e.padst = .none then .ready else .pad }

/-- READY with HOLD = 1 after INIT and the bytes `msg`: but for HOLD, as the engine stands with
HOLD = 0. -/
structure AbsorbedHeld (msg : List Byte) (q : Nat) (e : Engine) : Prop where
  hold     : e.hold = true
  absorbed : Absorbed msg q e.unheld

section Message

variable {msg : List Byte} {q : Nat} {e : Engine}

theorem AbsorbedHeld.initialise (e : Engine) (kreq : BitVec 8) :
    AbsorbedHeld [] 0 (e.initialise kreq true) :=
  ⟨rfl, .initialise e kreq⟩

/-- FILL counts the message modulo 64 (R202). -/
theorem AbsorbedHeld.fill_eq (h : AbsorbedHeld msg q e) : e.fill.toNat = msg.length % 64 := by
  have hfill : 64 * q + e.fill.toNat = msg.length := h.absorbed.fill
  have hlt : e.fill.toNat < 64 := h.absorbed.fill_lt
  omega

/-- A byte that does not end a block leaves the engine in READY, whatever HOLD. -/
theorem AbsorbedHeld.absorb (h : AbsorbedHeld msg q e) (b : Byte) (hmax : e.L.toNat + 1 < 2 ^ 64)
    (hne : e.fill.toNat ≠ 63) :
    ∃ q', AbsorbedHeld (msg ++ [b]) q' (e.absorbed b h.absorbed.fill_lt) := by
  obtain ⟨n, e', q', hrun, h'⟩ := h.absorbed.absorb b hmax
  have hready : (e.unheld.absorbed b h.absorbed.fill_lt).phase = .ready := if_neg hne
  cases microSteps_idle_unique (microSteps_zero _) (by rw [hready]; rfl) hrun
    (by rw [h'.phase]; rfl)
  exact ⟨q', h.hold, h'⟩

/-- A byte that ends a block leads to HELD, and RESUME from there to READY. -/
theorem AbsorbedHeld.absorb_block (h : AbsorbedHeld msg q e) (b : Byte)
    (hmax : e.L.toNat + 1 < 2 ^ 64) (hfull : e.fill.toNat = 63) :
    ∃ e' q', microSteps 114 (e.absorbed b h.absorbed.fill_lt) = .ok e' ∧ e'.phase = .held ∧
      AbsorbedHeld (msg ++ [b]) q' e'.resumed := by
  obtain ⟨_, e₀, q', hrun, h₀⟩ := h.absorbed.absorb b hmax
  obtain ⟨_, _, _, _, hrun₀⟩ :=
    microSteps_block (e := e.unheld.absorbed b h.absorbed.fill_lt) (if_pos hfull)
  obtain ⟨_, _, _, _, hrun'⟩ :=
    microSteps_block (e := e.absorbed b h.absorbed.fill_lt) (if_pos hfull)
  have hpadst : e.padst = .none := h.absorbed.padst
  have hready : phaseAfterBlock e.padst false = .ready := by rw [hpadst]; rfl
  have hheld : phaseAfterBlock e.padst e.hold = .held := by rw [hpadst, h.hold]; rfl
  cases microSteps_idle_unique hrun₀ (congrArg Phase.busy hready) hrun (by rw [h₀.phase]; rfl)
  exact ⟨_, q', hrun', hheld, h.hold, { h₀ with phase := if_pos hpadst, hold := rfl }⟩

end Message

/-! ### FINISH's blocks with HOLD = 1 (R204, R224) -/

/-- The padding stage of `msg` with HOLD = 1 and `m` blocks still to come: they take H to the digest
and BLKCNT to the padded message's block count. -/
structure Finishing (msg : List Byte) (m : Nat) (e : Engine) : Prop where
  hold    : e.hold = true
  fill_lt : e.fill.toNat < 64
  padding : ∃ j l, Padding msg.length j l e ∧ l.length = 64 * m ∧
    (blocks m l).foldl compress e.H = digest msg
  length  : e.L = BitVec.ofNat 64 msg.length
  count   : e.blkcnt + BitVec.ofNat 64 m = BitVec.ofNat 64 (blockCount msg.length)

section Finish

variable {msg : List Byte} {m q : Nat} {e : Engine}

/-- FINISH stands in front of its blocks (R173, R204). -/
theorem AbsorbedHeld.finish (h : AbsorbedHeld msg q e) :
    Finishing msg (finishBlocks msg.length)
      { e with lbits := bitLength e.L, padst := .mark, phase := .pad } := by
  have hL : e.L.toNat = msg.length := h.absorbed.length
  have hfill : 64 * q + e.fill.toNat = msg.length := h.absorbed.fill
  have hlt : e.fill.toNat < 64 := h.absorbed.fill_lt
  have hq : q = msg.length / 64 := by omega
  have htail : (msg.drop (64 * q)).length = e.fill.toNat := h.absorbed.length_tail
  have hbuffered : Buffered (msg.drop (64 * q)) e := h.absorbed.buffered
  have hpadding := Padding.of_finish htail hbuffered (by rw [hL]; omega)
  rw [hL] at hpadding
  refine ⟨h.hold, hlt, ⟨0, _, hpadding, length_append_padding (htail ▸ hlt) (by omega), ?hash⟩,
    ?length, ?count⟩
  case hash =>
    have hhash : e.H = (blocks q msg).foldl compress Rom.iv := h.absorbed.hash
    rw [digest_eq, hhash, hq]
  case length => rw [← hL, BitVec.ofNat_toNat, BitVec.setWidth_eq]
  case count =>
    have hcount : e.blkcnt = BitVec.ofNat 64 q := h.absorbed.count
    rw [blockCount_eq, BitVec.ofNat_add, ← hq, hcount]

/-- A block of the padding stage ends in HELD, and the last one in DONE. -/
theorem Finishing.block (h : Finishing msg (m + 1) e) (hphase : e.phase = .pad) :
    ∃ n e', microSteps n e = .ok e' ∧ Finishing msg m e' ∧
      e'.phase = if m = 0 then .done else .held := by
  obtain ⟨j, l, hpadding, hl, hdigest⟩ := h.padding
  obtain ⟨e₁, hrun₁, hpadding₁, hphase₁, hfull₁, hblk₁, hlast₁, hsame⟩ :=
    hpadding.fills hphase h.fill_lt (by omega)
  obtain ⟨hH, hL, hcount, hhold⟩ := hsame.message_eq
  rw [h.hold] at hhold
  obtain ⟨_, _, _, _, hrun₂⟩ := microSteps_block hphase₁
  refine ⟨_, _, (microSteps_add 114 hrun₁).trans hrun₂, ?finishing, ?phase⟩
  case finishing => exact {
    hold := hhold
    fill_lt := by simp
    padding := ⟨_, l.drop 64, hpadding₁.next_block hfull₁ rfl rfl rfl,
      by rw [List.length_drop]; omega, by rw [← hdigest, hH, hblk₁]; rfl⟩
    length := hL.trans h.length
    count := by
      rw [← h.count, hcount, BitVec.add_assoc, Nat.add_comm m, BitVec.ofNat_add] }
  case phase =>
    have hm : l.length = 64 ↔ m = 0 := by omega
    simp [phaseAfterBlock, hhold, hlast₁, hm]

/-- In the padding stage RESUME goes back to PAD (R174, R204). -/
theorem Finishing.resumed (h : Finishing msg m e) :
    Finishing msg m e.resumed ∧ e.resumed.phase = .pad := by
  obtain ⟨hhold, hlt, ⟨j, l, hpadding, hl⟩, hL, hcount⟩ := h
  have hnone : e.padst ≠ .none := hpadding.padst ▸ padPosition_ne_none _ _
  exact ⟨⟨hhold, hlt, ⟨j, l, { hpadding with }, hl⟩, hL, hcount⟩, if_neg hnone⟩

theorem Finishing.digested (h : Finishing msg 0 e) (hphase : e.phase = .done) : Digested msg e := by
  obtain ⟨-, -, ⟨j, l, hpadding, -, hdigest⟩, hL, hcount⟩ := h
  exact ⟨hphase, hdigest, hL, hpadding.lbits, by rw [← hcount]; simp⟩

end Finish

/-! ### The RESUMEs of the driver (R204, R244) -/

/-- A RESUME follows the byte that ends a block. -/
theorem absorbHeldBytes_cons_append (n : Nat) (b : Byte) (bytes : List Byte) (p : List HostOp) :
    absorbHeldBytes n (b :: bytes) ++ p = HostOp.issue (.absorb b) ::
      ((if n % 64 = 63 then [HostOp.issue .resume] else []) ++
        (absorbHeldBytes (n + 1) bytes ++ p)) := by
  rw [absorbHeldBytes]
  split <;> rfl

/-- A RESUME follows each of FINISH's blocks but the last. -/
theorem hashHeldOps_eq (kreq : BitVec 8) (bytes : List Byte) : hashHeldOps kreq bytes =
    HostOp.issue (.init kreq true) :: (absorbHeldBytes 0 bytes ++ HostOp.issue .finish ::
      List.replicate (finishBlocks bytes.length - 1) (HostOp.issue .resume)) := by
  unfold hashHeldOps finishBlocks
  split <;> rfl

end Sys2Proof.Machine

namespace Sys2Proof.Claims

open Sys2Proof.Machine Sys2Proof.Machine.Reference Sys2Proof.Safety

theorem atPort_absorbHeldBytes (n : Nat) (bytes : List Byte) (i : Instr) (p : List HostOp) :
    AtPort (absorbHeldBytes n bytes ++ HostOp.issue i :: p) := by
  cases bytes <;> exact atPort_issue _ _

theorem atPort_replicate (m : Nat) (i : Instr) : AtPort (List.replicate m (HostOp.issue i)) := by
  cases m with
  | zero => exact .inl rfl
  | succ m => exact atPort_issue _ _

section Port

variable {s : State} {msg : List Byte} {p : List HostOp}

/-- READY with HOLD = 1 after INIT and the bytes `msg`. -/
def HasAbsorbedHeld (msg : List Byte) (e : Engine) : Prop := ∃ q, AbsorbedHeld msg q e

/-- INIT is accepted once the engine comes to an idle phase, whatever its operands. -/
theorem arrives_initialise {kreq : BitVec 8} {hld : Bool} {Q : Engine → Prop} (h : Inv s)
    (hn : NoReset s.turns) (hp : AtPort p)
    (hprog : s.program = HostOp.issue (.init kreq hld) :: p)
    (hQ : ∀ e : Engine, Q (e.initialise kreq hld)) : Arrives s Q p := by
  obtain ⟨n, e, -, hrun, hidle⟩ := h.engine.comes_idle
  refine (arrives_microSteps (Q := (·.phase.busy = false)) hn (atPort_issue _ p) hprog hrun
    hidle).trans fun s₁ hidle₁ hp₁ hn₁ => ?_
  have hi : Idle s₁ := (Phase.idle_iff _).1 hidle₁
  exact arrives_issue hi hn₁ hp₁ hp (exec_init (s := afterAccess s₁ p .done) hi kreq hld)
    (microSteps_zero _) (hQ s₁.eng)

/-- RESUME in HELD (R174). -/
theorem arrives_resume (hphase : s.eng.phase = .held) (hn : NoReset s.turns) (hp : AtPort p)
    (hprog : s.program = HostOp.issue .resume :: p) : Arrives s (· = s.eng.resumed) p :=
  arrives_issue (.inr (.inl hphase)) hn hprog hp
    (exec_resume_held (s := afterAccess s p .done) hphase) (microSteps_zero _) rfl

/-- One ABSORB, and the RESUME where it ends a block. -/
theorem arrives_absorbHeld {b : Byte} (h : HasAbsorbedHeld msg s.eng)
    (hmax : msg.length + 1 < 2 ^ 61) (hn : NoReset s.turns) (hp : AtPort p)
    (hprog : s.program = HostOp.issue (.absorb b) ::
      ((if msg.length % 64 = 63 then [HostOp.issue .resume] else []) ++ p)) :
    Arrives s (HasAbsorbedHeld (msg ++ [b])) p := by
  obtain ⟨q, h⟩ := h
  have hL : s.eng.L.toNat = msg.length := h.absorbed.length
  have hready : s.eng.phase = .ready := h.absorbed.phase
  have hne : s.eng.L.toNat ≠ 2 ^ 61 - 1 := by omega
  have hexec (rest) :=
    exec_absorb_ready (s := afterAccess s rest .done) b h.absorbed.fill_lt hready hne
  rw [← h.fill_eq] at hprog
  by_cases hfull : s.eng.fill.toNat = 63
  case neg =>
    rw [if_neg hfull] at hprog
    exact arrives_issue (.inl hready) hn hprog hp (hexec _) (microSteps_zero _)
      (h.absorb b (by omega) hfull)
  case pos =>
    rw [if_pos hfull] at hprog
    obtain ⟨e', q', hrun, hheld, h'⟩ := h.absorb_block b (by omega) hfull
    refine (arrives_issue (Q := (· = e')) (.inl hready) hn hprog (atPort_issue _ p) (hexec _) hrun
      rfl).trans fun s₁ he₁ hp₁ hn₁ => ?_
    subst he₁
    refine (arrives_resume hheld hn₁ hp hp₁).trans fun s₂ he₂ hp₂ hn₂ => ?_
    exact .refl ⟨q', he₂ ▸ h'⟩ hp₂ hn₂

/-- The whole message, byte by byte. -/
theorem arrives_absorbHeldBytes {bytes : List Byte} (h : HasAbsorbedHeld msg s.eng)
    (hmax : (msg ++ bytes).length < 2 ^ 61) (hn : NoReset s.turns) (i : Instr)
    (hprog : s.program = absorbHeldBytes msg.length bytes ++ HostOp.issue i :: p) :
    Arrives s (HasAbsorbedHeld (msg ++ bytes)) (HostOp.issue i :: p) := by
  induction bytes generalizing s msg with
  | nil => exact .refl (by simpa using h) hprog hn
  | cons b bytes ih =>
    have hlen : (msg ++ [b]).length = msg.length + 1 := List.length_append
    have hlt : msg.length + 1 < 2 ^ 61 := by
      rw [List.length_append, List.length_cons] at hmax
      omega
    rw [absorbHeldBytes_cons_append, ← hlen] at hprog
    rw [List.append_cons] at hmax ⊢
    refine (arrives_absorbHeld h hlt hn (atPort_absorbHeldBytes _ bytes i p) hprog).trans
      fun s₁ h₁ hp₁ hn₁ => ?_
    exact ih h₁ hmax hn₁ hp₁

/-- FINISH's blocks, with a RESUME between them. -/
theorem arrives_finishing {m : Nat} (h : Finishing msg (m + 1) s.eng) (hphase : s.eng.phase = .pad)
    (hn : NoReset s.turns) (hprog : s.program = List.replicate m (HostOp.issue .resume)) :
    Arrives s (Digested msg) [] := by
  induction m generalizing s with
  | zero =>
    obtain ⟨n, e, hrun, h', hdone⟩ := h.block hphase
    exact arrives_microSteps hn (.inl rfl) hprog hrun (h'.digested hdone)
  | succ m ih =>
    obtain ⟨n, e, hrun, h', hheld⟩ := h.block hphase
    refine (arrives_microSteps (Q := (· = e)) hn (atPort_replicate _ _) hprog hrun rfl).trans
      fun s₁ he₁ hp₁ hn₁ => ?_
    subst he₁
    refine (arrives_resume hheld hn₁ (atPort_replicate m _) hp₁).trans fun s₂ he₂ hp₂ hn₂ => ?_
    obtain ⟨h₂, hphase₂⟩ := he₂ ▸ h'.resumed
    exact ih h₂ hphase₂ hn₂ hp₂

/-- FINISH and its blocks. -/
theorem arrives_finishHeld (h : HasAbsorbedHeld msg s.eng) (hn : NoReset s.turns)
    (hprog : s.program = HostOp.issue .finish ::
      List.replicate (finishBlocks msg.length - 1) (HostOp.issue .resume)) :
    Arrives s (Digested msg) [] := by
  obtain ⟨q, h⟩ := h
  have hready : s.eng.phase = .ready := h.absorbed.phase
  have hfinish := h.finish
  obtain ⟨m, hm⟩ := exists_finishBlocks_eq_succ msg.length
  rw [hm] at hprog hfinish
  refine (arrives_issue (Q := fun e => Finishing msg (m + 1) e ∧ e.phase = .pad) (.inl hready) hn
    hprog (atPort_replicate m _) (exec_finish_ready (s := afterAccess s _ .done) hready)
    (microSteps_zero _) ⟨hfinish, rfl⟩).trans fun s₁ ⟨h₁, hphase₁⟩ hp₁ hn₁ => ?_
  exact arrives_finishing h₁ hphase₁ hn₁ hp₁

end Port

/-- Settles O56: the driver's commands one after the other, with the RESUMEs where the blocks end. -/
theorem holdingHostGetsTheSameDigest : Obligations.HoldingHostGetsTheSameDigest := by
  intro s kreq msg h hn hlen hprog
  rw [hashHeldOps_eq] at hprog
  have harrives : Arrives s (Digested msg) [] := by
    refine (arrives_initialise (Q := HasAbsorbedHeld []) h hn
      (atPort_absorbHeldBytes 0 msg .finish _) hprog fun e => ⟨0, .initialise e kreq⟩).trans
      fun s₁ h₁ hp₁ hn₁ => ?_
    refine (arrives_absorbHeldBytes h₁ hlen hn₁ .finish hp₁).trans fun s₂ h₂ hp₂ hn₂ => ?_
    exact arrives_finishHeld h₂ hn₂ hp₂
  obtain ⟨n, s', hrun, hd, hp, -⟩ := harrives
  exact ⟨n, s', hrun, hd.phase, hp, hd.hash, hd.count⟩

end Sys2Proof.Claims
end

section
/-!
PROOF. The exceptions (spec/60_exceptions.md): error entry changes ERRCODE, ERRCMD and PHASE only (R263,
O16), ERROR keeps the first error until INIT or the reset (R264, R270, R272, O17), and no micro-step
raises an error (R261, O18).
-/

namespace Sys2Proof.Machine

open Sys2Proof.Claims

/-! ### Error entry (R263) -/

/-- A command answers an error with exactly the error entry for its own word. -/
def Raises (i : Instr) (s : State) : Prop :=
  ∃ code, code ≠ .none ∧ exec i s = .next (errorState s code (encode i))

/-- LOADM and COMPRESS in READY: FILL decides (R181, R182). -/
theorem executes_or_raises_of_blockCommand {i : Instr} {s : State}
    (hi : i = .compress ∨ ∃ j, i = .loadm j) (hp : s.eng.phase = .ready)
    (hx : s.eng.fill = 0#7 → Executes i s) : Executes i s ∨ Raises i s := by
  by_cases hfill : s.eng.fill = 0#7
  · exact .inl (hx hfill)
  · exact .inr ⟨.invariantViolation, nofun, exec_invariantViolation hi hp hfill⟩

/-- ABSORB in READY: the length check decides, and past it only R56 can fail (R172). -/
theorem executes_or_raises_of_absorb {b : Byte} {s s' : State} (hp : s.eng.phase = .ready)
    (h : exec (.absorb b) s = .next s') : Executes (.absorb b) s ∨ Raises (.absorb b) s := by
  by_cases hL : s.eng.L.toNat = 2 ^ 61 - 1
  · exact .inr ⟨.inputTooLarge, nofun, exec_absorb_tooLong b hp hL⟩
  · by_cases hfill : s.eng.fill.toNat < 64
    · exact .inl (executes_absorb b hfill hp hL)
    · rw [exec_absorb_full b (by omega) hp hL] at h
      cases h

/-- A command whose phase is legal executes, or raises its own exception. -/
theorem executes_or_raises_of_legal {i : Instr} {s s' : State} (ho : Open s)
    (hl : legalIn i s.eng.phase = true) (h : exec i s = .next s') :
    Executes i s ∨ Raises i s := by
  cases i with
  | nop => exact .inl (executes_nop ho)
  | init kreq hld => exact .inl (executes_init ho.idle kreq hld)
  | resume => exact .inl (executes_resume (by simpa [legalIn] using hl))
  | finish => exact .inl (executes_finish (by simpa [legalIn] using hl))
  | loadh j => exact .inl (executes_loadh j (by simpa [legalIn] using hl))
  | absorb b => exact executes_or_raises_of_absorb (by simpa [legalIn] using hl) h
  | loadm j =>
    have hp : s.eng.phase = .ready := by simpa [legalIn] using hl
    exact executes_or_raises_of_blockCommand (.inr ⟨j, rfl⟩) hp (executes_loadm j hp)
  | compress =>
    have hp : s.eng.phase = .ready := by simpa [legalIn] using hl
    exact executes_or_raises_of_blockCommand (.inl rfl) hp (executes_compress hp)

/-- A command that ends in ERROR got there by error entry: its phase, or its own exception. -/
theorem raises_of_phase_error {i : Instr} {s s' : State} (ho : Open s)
    (h : exec i s = .next s') (he : s'.eng.phase = .error) : Raises i s := by
  cases hl : legalIn i s.eng.phase with
  | false => exact ⟨.protocolError, nofun, exec_protocol ho hl⟩
  | true =>
    obtain hx | hr := executes_or_raises_of_legal ho hl h
    · exact absurd he (hx.phase_ne_error h)
    · exact hr

/-- Whichever word ends in ERROR, what it leaves is error entry with that word. -/
theorem acceptWord_eq_errorState {c : Word} {s s' : State} (ho : Open s)
    (h : acceptWord c s = .next s') (he : s'.eng.phase = .error) :
    ∃ code, code ≠ .none ∧ s' = errorState s code c := by
  obtain ⟨i, hd, hx⟩ | rfl | ⟨-, rfl⟩ := acceptWord_cases h
  · obtain ⟨code, hcode, hr⟩ := raises_of_phase_error ho hx he
    rw [hx, encode_of_decode hd] at hr
    cases hr
    exact ⟨code, hcode, rfl⟩
  · exact absurd he ho.phase_ne_error
  · exact ⟨.illegalCommand, nofun, rfl⟩

/-! ### Micro-steps (R261) -/

/-- No micro-step writes the error registers. -/
theorem Moves.error_eq {e e' : Engine} (h : Moves e e') :
    e'.errcode = e.errcode ∧ e'.errcmd = e.errcmd := by
  cases h <;> exact ⟨rfl, rfl⟩

/-- No micro-step chooses ERROR as the next phase. -/
theorem Moves.phase_ne_error {e e' : Engine} (h : Moves e e') : e'.phase ≠ .error := by
  cases h with
  | slice | schedLast => nofun
  | sched hphase => simp [hphase]
  | final => exact Safety.phaseAfterBlock_ne_error _ _
  | pad _ _ hphase | round _ _ _ hphase =>
    dsimp only
    split <;> simp [hphase]

end Sys2Proof.Machine

namespace Sys2Proof.Claims

open Sys2Proof.Machine Sys2Proof.Safety

/-- Settles O16: the word's answer is error entry, and ERROR is neither busy nor DONE. -/
theorem errorEntryChangesNothingElse : Obligations.ErrorEntryChangesNothingElse := by
  intro c s s' ho h he
  obtain ⟨code, hcode, rfl⟩ := acceptWord_eq_errorState ho h he
  exact ⟨hcode, rfl, Engine.status_busy _, Engine.status_digestValid _⟩

/-- Settles O17: in ERROR the engine has no move, so the step is the host's, and acceptance ignores
every word but INIT's. -/
theorem firstErrorIsKept : Obligations.FirstErrorIsKept := by
  intro s s' hp hs
  have hidle : Idle s := .inr (.inr (.inr hp))
  by_cases ht : s.turn = .reset
  · exact .inr (.inl ht)
  rw [step_of_idle ht hidle] at hs
  obtain ⟨he, -⟩ | ⟨v, rest, -, rfl⟩ | ⟨c, rest, hprog, -, ha⟩ := hostTurn_cases hs
  · exact .inl (by rw [he]; rfl)
  · exact .inl rfl
  · by_cases hinit : ∃ kreq hld, decode c = .command (.init kreq hld)
    · obtain ⟨kreq, hld, hd⟩ := hinit
      exact .inr (.inr ⟨hidle, c, kreq, hld, rest, hprog, hd⟩)
    · rw [acceptWord_error (s := s.takeTurn.complete .done) hp hinit] at ha
      cases ha
      exact .inl rfl

/-- Settles O18: the micro-step goes through from the invariant, and is one of `Moves`. -/
theorem microStepsRaiseNoError : Obligations.MicroStepsRaiseNoError := by
  intro e h hb
  obtain ⟨e', he⟩ := h.microStep_ok hb
  have hm := microStep_moves he
  exact ⟨e', he, hm.phase_ne_error, hm.error_eq⟩

end Sys2Proof.Claims
end

section
/-!
PROOF. Reset and hazards (spec/70_reset_and_hazards.md): the reset leaves what INIT 8 leaves with
DIN = 0 (R300, R301, O40), recording happens for the first block only (R315, O46), and a busy engine
is idle again within 300 micro-steps (R312, O52).
-/

namespace Sys2Proof.Machine

/-! ### The reset (R300, R301) -/

/-- The platform's reset comes before either agent's move. -/
theorem step_of_reset {s : State} (ht : s.turn = .reset) :
    step s = .next (platformReset s.takeTurn) := by
  simp [step, nextMove, ht]

/-- R300: the reset values are INIT 8's, with DIN = 0. -/
theorem initialise_with_din_zero (e : Engine) :
    { e.initialise 8#8 false with din := 0#32 } = Engine.reset := rfl

/-! ### The recorder (R222, R315) -/

/-- What R315 asks of a change of the engine: REC is written in ROUND with FIRST = 1 only, FIRST is
not set, and RECK and HOLD stay. -/
def RecordsFirstBlockOnly (e e' : Engine) : Prop :=
  (e'.records ≠ e.records → e.phase = .round ∧ e.first = true) ∧
  (e'.first = true → e.first = true) ∧ e'.reck = e.reck ∧ e'.hold = e.hold

theorem RecordsFirstBlockOnly.of_eq {e e' : Engine} (hrecords : e'.records = e.records)
    (hfirst : e'.first = e.first) (hreck : e'.reck = e.reck) (hhold : e'.hold = e.hold) :
    RecordsFirstBlockOnly e e' :=
  ⟨fun hne => absurd hrecords hne, fun h => hfirst ▸ h, hreck, hhold⟩

/-- A round below `k_eff` belongs to the first block (R222). -/
theorem first_of_lt_kEff {e : Engine} {t : BitVec 7} (h : t < e.kEff) : e.first = true := by
  cases hfirst : e.first with
  | true => rfl
  | false => exact absurd h (not_lt_kEff hfirst t)

/-- Only ROUND writes REC, below `k_eff`, and only FINAL writes FIRST, which it clears. -/
theorem Moves.recordsFirstBlockOnly {e e' : Engine} (h : Moves e e') :
    RecordsFirstBlockOnly e e' := by
  cases h with
  | round _ _ _ hphase =>
    refine ⟨fun hne => ⟨hphase, ?_⟩, id, rfl, rfl⟩
    by_cases hlt : e.t < e.kEff
    · exact first_of_lt_kEff hlt
    · exact absurd (if_neg hlt) hne
  | final => exact ⟨fun hne => absurd rfl hne, nofun, rfl, rfl⟩
  | pad | slice | sched | schedLast => exact .of_eq rfl rfl rfl rfl

/-- No command but INIT writes REC, FIRST, RECK or HOLD. -/
theorem Answers.recordsFirstBlockOnly {d : Decoded} {e e' : Engine} (h : Answers d e e') :
    (∃ kreq hld, d = .command (.init kreq hld)) ∨ RecordsFirstBlockOnly e e' := by
  cases h with
  | init _ kreq hld => exact .inl ⟨kreq, hld, rfl⟩
  | ignored | raised | absorb | finish | resume | loadh | loadm | compress =>
    exact .inr (.of_eq rfl rfl rfl rfl)

/-! ### Runs by their first micro-step (R223) -/

theorem microSteps_cons {n : Nat} {e e₁ e₂ : Engine} (h : microStep e = .ok e₁)
    (hrun : microSteps n e₁ = .ok e₂) : microSteps (n + 1) e = .ok e₂ := by
  simp [microSteps, h, hrun]

end Sys2Proof.Machine

namespace Sys2Proof.Safety

open Sys2Proof.Machine

/-- R312: `stepsLeft` falls with every micro-step, so it bounds the micro-steps to an idle phase. -/
theorem EngineInv.idle_within_stepsLeft {e : Engine} (h : EngineInv e) :
    ∃ n e', n ≤ stepsLeft e ∧ microSteps n e = .ok e' ∧ e'.phase.busy = false := by
  cases hb : e.phase.busy with
  | false => exact ⟨0, e, Nat.zero_le _, rfl, hb⟩
  | true =>
    obtain ⟨e₁, he⟩ := h.microStep_ok hb
    have hm : Moves e e₁ := microStep_moves he
    have hlt : stepsLeft e₁ < stepsLeft e := h.stepsLeft_lt hm
    obtain ⟨n, e', hn, hrun, hidle⟩ := (h.of_moves hm).idle_within_stepsLeft
    exact ⟨n + 1, e', by omega, microSteps_cons he hrun, hidle⟩
termination_by stepsLeft e

end Sys2Proof.Safety

namespace Sys2Proof.Claims

open Sys2Proof.Machine Sys2Proof.Safety

/-- Settles O46: by the cases of a step; a micro-step records in a first block's rounds only, and
INIT is the only command that reaches the recorder. -/
theorem recordingHappensForTheFirstBlockOnly :
    Obligations.RecordingHappensForTheFirstBlockOnly := by
  intro s s' h
  obtain ⟨ht, -⟩ | ⟨-, hm | he | ⟨v, rest, -, he⟩ | ⟨c, rest, hp, hb, ha⟩⟩ := step_engine_cases h
  · exact .inl ht
  · exact .inr (.inr hm.recordsFirstBlockOnly)
  · exact .inr (.inr (he ▸ RecordsFirstBlockOnly.of_eq rfl rfl rfl rfl))
  · exact .inr (.inr (he ▸ RecordsFirstBlockOnly.of_eq rfl rfl rfl rfl))
  · obtain ⟨kreq, hld, hd⟩ | hkeeps := ha.recordsFirstBlockOnly
    · exact .inr (.inl ⟨(Phase.idle_iff _).1 hb, c, kreq, hld, rest, hp, hd⟩)
    · exact .inr (.inr hkeeps)

/-- Settles O52: the steps left bound the run to an idle phase, and they are at most 300. -/
theorem busyPhasesEndWithin300MicroSteps : Obligations.BusyPhasesEndWithin300MicroSteps := by
  intro e h
  obtain ⟨n, e', hn, hrun, hidle⟩ := h.idle_within_stepsLeft
  exact ⟨n, e', hn.trans h.stepsLeft_le, hrun, hidle⟩

/-- Settles O40: the reset's step is `platformReset`, which writes the values INIT 8 leaves. -/
theorem resetFromAnyPhase : Obligations.ResetFromAnyPhase := by
  obtain ⟨-, hstatus⟩ := statusFields
  refine ⟨fun _ => step_of_reset, rfl, ?init, hstatus⟩
  case init =>
    intro s s' hi h
    cases (exec_init hi 8#8 false).symm.trans h
    exact initialise_with_din_zero s.eng

end Sys2Proof.Claims
end
